-- ==== Sys2Proof/Word.lean ====
section
/-! DEFINITION. The word types of the frame decoder (spec/00_scope.md R9, spec/10_state.md). -/

namespace Sys2Proof

/-- One byte of the identifier buffer (R29, R50). -/
abbrev Byte := BitVec 8

/-- The 3-bit input word `rst, start, line` read at every edge; bit 2 is `rst` (R74). -/
abbrev InputWord := BitVec 3

/-- The 4-bit state code (R78). -/
abbrev StateCode := BitVec 4

/-- The 40-bit identifier of the `id_out` port (R33, R53). -/
abbrev Identifier := BitVec 40

end Sys2Proof
end

