-- ==== Sys2Proof/Syntax.lean ====
section
/-! DEFINITION. The names of the states and result codes, and the instructions of the frame decoder: one constructor
per row of spec/opcode_table.json. -/

namespace Sys2Proof

/-- The states of the finite-state machine (R20, R78), and the six unused codes 10 to 15 (R79). -/
inductive FsmState where
  | idle
  | idleWait
  | syncSettle
  | syncCheck
  | hdrWait
  | hdrSettle
  | hdrCheck
  | bitSettle
  | bitSample
  | bitWait
  /-- The unused code 10 + k (R79); recovered from by R109. -/
  | unused (k : Fin 6)
deriving DecidableEq, Repr

/-- The eight result codes, in the order of their 3-bit numbers (R80). -/
inductive ResultCode where
  | none
  | ok
  | noCarrier
  | framingError
  | headerTimeout
  | rowParityError
  | columnParityError
  | timeout
deriving DecidableEq, Repr

/-- What the block can be asked to do at one edge (R2, R86): one constructor per row of the opcode table.
`line` is the level sampled at the edge and `start` the `start` port (the two operands of R77). -/
inductive Instr where
  /-- RESET, word `1xx` (R250). -/
  | reset (start line : Bool)
  /-- START, word `01l` (R103). -/
  | start (line : Bool)
  /-- TICK, word `00l` (R100). -/
  | tick (line : Bool)
  /-- IDLE, code 0 with `start = 0` (R102). -/
  | idle (line : Bool)
  /-- IDLE_WAIT, code 1 (R140). -/
  | idleWait (line : Bool)
  /-- SYNC_SETTLE, code 2 (R141). -/
  | syncSettle (line : Bool)
  /-- SYNC_CHECK, code 3 (R142). -/
  | syncCheck (line : Bool)
  /-- HDR_WAIT, code 4 (R144). -/
  | hdrWait (line : Bool)
  /-- HDR_SETTLE, code 5 (R145). -/
  | hdrSettle (line : Bool)
  /-- HDR_CHECK, code 6 (R146). -/
  | hdrCheck (line : Bool)
  /-- BIT_SETTLE, code 7 (R170). -/
  | bitSettle (line : Bool)
  /-- BIT_SAMPLE, code 8 (R171). -/
  | bitSample (line : Bool)
  /-- BIT_WAIT, code 9 (R175). -/
  | bitWait (line : Bool)
  /-- BIT_WAIT.ROW_END, the micro-operation `row_end(to)` of BIT_WAIT (R200). -/
  | bitWaitRowEnd (timedOut : Bool)
  /-- BIT_WAIT.FINAL_CHECK, the micro-operation `final_check(to)` of BIT_WAIT (R201). -/
  | bitWaitFinalCheck (timedOut : Bool)
  /-- ILLEGAL_10_11, the unused codes 10 and 11 (R109). -/
  | illegal10to11 (code : StateCode) (line : Bool)
  /-- ILLEGAL_12_15, the unused codes 12 to 15 (R109). -/
  | illegal12to15 (code : StateCode) (line : Bool)
deriving DecidableEq, Repr

end Sys2Proof
end

