-- ==== Sys2Proof/WellFormed.lean ====
section
/-! DEFINITION. Which instructions an encoding can name: the two unused-code rows carry the code they were read from,
and it must lie in the row's range (R79; spec/opcode_table.json ILLEGAL_10_11, ILLEGAL_12_15). Every other operand
is legal at every value (R74: "All 8 values are legal"). -/

namespace Sys2Proof

/-- The check each instruction must pass. -/
def Instr.wf : Instr → Bool
  | .reset _ _ => true
  | .start _ => true
  | .tick _ => true
  | .idle _ => true
  | .idleWait _ => true
  | .syncSettle _ => true
  | .syncCheck _ => true
  | .hdrWait _ => true
  | .hdrSettle _ => true
  | .hdrCheck _ => true
  | .bitSettle _ => true
  | .bitSample _ => true
  | .bitWait _ => true
  | .bitWaitRowEnd _ => true
  | .bitWaitFinalCheck _ => true
  | .illegal10to11 code _ => decide (10 ≤ code.toNat ∧ code.toNat ≤ 11)
  | .illegal12to15 code _ => decide (12 ≤ code.toNat)

/-- Whether the table gives the row an encoding no other row has. The two micro-operations of BIT_WAIT share
BIT_WAIT's code 1001: they are selected by `row`, `col` and the poll outcome, not by a word. -/
def Instr.hasOwnWord : Instr → Bool
  | .bitWaitRowEnd _ => false
  | .bitWaitFinalCheck _ => false
  | .reset _ _ => true
  | .start _ => true
  | .tick _ => true
  | .idle _ => true
  | .idleWait _ => true
  | .syncSettle _ => true
  | .syncCheck _ => true
  | .hdrWait _ => true
  | .hdrSettle _ => true
  | .hdrCheck _ => true
  | .bitSettle _ => true
  | .bitSample _ => true
  | .bitWait _ => true
  | .illegal10to11 _ _ => true
  | .illegal12to15 _ _ => true

end Sys2Proof
end

