-- ==== Sys2Proof/Decode.lean ====
section
/-! DEFINITION. Decoding and encoding (spec/30_encoding.md): the input word (R74), the state code (R78), the pair of
the two that one edge performs (R86), the result codes (R80), and the words of spec/opcode_table.json. -/

namespace Sys2Proof

/-- Bit 2 of the input word (R74). -/
def InputWord.rst (w : InputWord) : Bool := w.getLsbD 2

/-- Bit 1 of the input word (R74). -/
def InputWord.start (w : InputWord) : Bool := w.getLsbD 1

/-- Bit 0 of the input word: the level of `line_in` (R74, R75). -/
def InputWord.line (w : InputWord) : Bool := w.getLsbD 0

/-- The input word with value `4·rst + 2·start + line` (R74). -/
def InputWord.ofBits (rst start line : Bool) : InputWord :=
  BitVec.ofNat 3 (4 * rst.toNat + 2 * start.toNat + line.toNat)

/-- The state code of each state (R78, R79). -/
def FsmState.code : FsmState → StateCode
  | .idle => 0
  | .idleWait => 1
  | .syncSettle => 2
  | .syncCheck => 3
  | .hdrWait => 4
  | .hdrSettle => 5
  | .hdrCheck => 6
  | .bitSettle => 7
  | .bitSample => 8
  | .bitWait => 9
  | .unused k => BitVec.ofNat 4 (10 + k.val)

/-- The state each code names (R78, R79). -/
def FsmState.ofCode (code : StateCode) : FsmState :=
  match code.toNat with
  | 0 => .idle
  | 1 => .idleWait
  | 2 => .syncSettle
  | 3 => .syncCheck
  | 4 => .hdrWait
  | 5 => .hdrSettle
  | 6 => .hdrCheck
  | 7 => .bitSettle
  | 8 => .bitSample
  | 9 => .bitWait
  | 10 => .unused 0
  | 11 => .unused 1
  | 12 => .unused 2
  | 13 => .unused 3
  | 14 => .unused 4
  | _ => .unused 5

/-- The 3-bit number of each result code (R80). -/
def ResultCode.code : ResultCode → BitVec 3
  | .none => 0
  | .ok => 1
  | .noCarrier => 2
  | .framingError => 3
  | .headerTimeout => 4
  | .rowParityError => 5
  | .columnParityError => 6
  | .timeout => 7

/-- The input rows of the table, in R74's order of priority: `1xx` RESET, `01l` START, `00l` TICK. -/
def decodeInput (w : InputWord) : Instr :=
  if w.rst then .reset w.start w.line
  else if w.start then .start w.line
  else .tick w.line

/-- The state rows of the table: the operation of a state code at an edge that samples `line` (R78, R79). -/
def decodeState (code : StateCode) (line : Bool) : Instr :=
  match FsmState.ofCode code with
  | .idle => .idle line
  | .idleWait => .idleWait line
  | .syncSettle => .syncSettle line
  | .syncCheck => .syncCheck line
  | .hdrWait => .hdrWait line
  | .hdrSettle => .hdrSettle line
  | .hdrCheck => .hdrCheck line
  | .bitSettle => .bitSettle line
  | .bitSample => .bitSample line
  | .bitWait => .bitWait line
  | .unused _ => if code.toNat ≤ 11 then .illegal10to11 code line else .illegal12to15 code line

/-- How one edge is decoded (R86): RESET first, then START in IDLE, else the operation of the state code. -/
def decodeEdge (w : InputWord) (code : StateCode) : Instr :=
  if w.rst then .reset w.start w.line
  else if code = 0 ∧ w.start = true then .start w.line
  else decodeState code w.line

/-- The two forms an instruction is written in: an input word alone (format `input3` of the table), or the pair of
input word and state code that R86 calls an instruction of this block (format `state4`, with the word it meets). -/
inductive Form where
  | input3 (word : InputWord)
  | pair (word : InputWord) (code : StateCode)
deriving DecidableEq, Repr

/-- The instruction a form stands for. No form is illegal (R81). -/
def decode : Form → Instr
  | .input3 w => decodeInput w
  | .pair w code => decodeEdge w code

/-- The words of an instruction: the inverse of `decode` on every well-formed instruction with a word of its own. Ignored bits
are written as 0, and so is the line of the two micro-operations, which the table gives only BIT_WAIT's code. -/
def encode : Instr → Form
  | .reset start line => .input3 (InputWord.ofBits true start line)
  | .start line => .input3 (InputWord.ofBits false true line)
  | .tick line => .input3 (InputWord.ofBits false false line)
  | .idle line => .pair (InputWord.ofBits false false line) 0
  | .idleWait line => .pair (InputWord.ofBits false false line) 1
  | .syncSettle line => .pair (InputWord.ofBits false false line) 2
  | .syncCheck line => .pair (InputWord.ofBits false false line) 3
  | .hdrWait line => .pair (InputWord.ofBits false false line) 4
  | .hdrSettle line => .pair (InputWord.ofBits false false line) 5
  | .hdrCheck line => .pair (InputWord.ofBits false false line) 6
  | .bitSettle line => .pair (InputWord.ofBits false false line) 7
  | .bitSample line => .pair (InputWord.ofBits false false line) 8
  | .bitWait line => .pair (InputWord.ofBits false false line) 9
  | .bitWaitRowEnd _ => .pair (InputWord.ofBits false false false) 9
  | .bitWaitFinalCheck _ => .pair (InputWord.ofBits false false false) 9
  | .illegal10to11 code line => .pair (InputWord.ofBits false false line) code
  | .illegal12to15 code line => .pair (InputWord.ofBits false false line) code

/-! ## Rows of the opcode table -/

/-- The two formats of spec/opcode_table.json. -/
inductive RowFormat where
  | input3
  | state4
deriving DecidableEq, Repr

/-- A row's format, its `match` value and its `mask`. -/
structure TableRow where
  format : RowFormat
  value : Nat
  mask : Nat
deriving DecidableEq, Repr

/-- The row of spec/opcode_table.json each constructor stands for. -/
def Instr.tableRow : Instr → TableRow
  | .reset _ _ => { format := .input3, value := 4, mask := 4 }
  | .start _ => { format := .input3, value := 2, mask := 6 }
  | .tick _ => { format := .input3, value := 0, mask := 6 }
  | .idle _ => { format := .state4, value := 0, mask := 15 }
  | .idleWait _ => { format := .state4, value := 1, mask := 15 }
  | .syncSettle _ => { format := .state4, value := 2, mask := 15 }
  | .syncCheck _ => { format := .state4, value := 3, mask := 15 }
  | .hdrWait _ => { format := .state4, value := 4, mask := 15 }
  | .hdrSettle _ => { format := .state4, value := 5, mask := 15 }
  | .hdrCheck _ => { format := .state4, value := 6, mask := 15 }
  | .bitSettle _ => { format := .state4, value := 7, mask := 15 }
  | .bitSample _ => { format := .state4, value := 8, mask := 15 }
  | .bitWait _ => { format := .state4, value := 9, mask := 15 }
  | .bitWaitRowEnd _ => { format := .state4, value := 9, mask := 15 }
  | .bitWaitFinalCheck _ => { format := .state4, value := 9, mask := 15 }
  | .illegal10to11 _ _ => { format := .state4, value := 10, mask := 14 }
  | .illegal12to15 _ _ => { format := .state4, value := 12, mask := 12 }

/-- Whether a form's word lies in a row: its bits under the row's mask are the row's value. -/
def TableRow.admits (row : TableRow) : Form → Bool
  | .input3 w => decide (row.format = .input3 ∧ w.toNat &&& row.mask = row.value)
  | .pair _ code => decide (row.format = .state4 ∧ code.toNat &&& row.mask = row.value)

/-! ## Words of the opcode table

The table numbers both formats from bit 0, so an input word and a state code can be the same number. As one byte the
model lays out R86's pair with the state code in bits 3 to 0 (where the table's state rows have it), the input word in
bits 6 to 4 and bit 7 zero (DESIGN CHOICE, log 7). -/

/-- Why bits are no instruction of the table. -/
inductive DecodeReject where
  /-- A byte with bit 7 set: the pair of R86 has 3 + 4 bits. -/
  | bitSevenSet
  /-- A byte sequence with no byte left. -/
  | noByte
deriving DecidableEq, Repr

/-- The byte that holds a pair. -/
def pairByte (w : InputWord) (code : StateCode) : Byte := (0#1 ++ w) ++ code

/-- The input word of a pair's byte. -/
def byteWord (b : Byte) : InputWord := b.extractLsb' 4 3

/-- The state code of a pair's byte. -/
def byteCode (b : Byte) : StateCode := b.extractLsb' 0 4

/-- The instruction of one byte. -/
def decodeByte (b : Byte) : Except DecodeReject Instr :=
  if b.getLsbD 7 then .error .bitSevenSet else .ok (decodeEdge (byteWord b) (byteCode b))

/-- The first instruction of a byte sequence, with the bytes after it: every instruction is one byte long (R82). -/
def decodeBytes : List Byte → Except DecodeReject (Instr × List Byte)
  | [] => .error .noByte
  | b :: rest => (decodeByte b).map fun i => (i, rest)

/-- The instruction of a word of spec/opcode_table.json, `nbits` wide: 3 bits are an input word, 4 bits a state code
met with the word 000, and a whole byte the pair (log 7). -/
def decodeTableWord (nbits w : Nat) : Option Instr :=
  if 2 ^ nbits ≤ w then none
  else if nbits = 3 then some (decodeInput (BitVec.ofNat 3 w))
  else if nbits = 4 then some (decodeEdge 0 (BitVec.ofNat 4 w))
  else if nbits = 8 then
    match decodeBytes [BitVec.ofNat 8 w] with
    | .ok (i, _) => some i
    | .error _ => none
  else none

end Sys2Proof
end

