-- ==== Sys2Proof/Config.lean ====
section
/-! DEFINITION. What an implementation fixes when the block is built (spec/00_scope.md R7, spec/92_eei_decisions.md),
and the values the spec leaves open. Nothing here changes while the block runs (R36). -/

namespace Sys2Proof

/-- The build-time parameters T and S of R7. Their types hold exactly the legal values, so the builds that
spec/93_implementation_defined.md I13 refuses (T = 0, T or S above 2^16) cannot be written down (log 3). -/
structure Params where
  /-- T - 1, so that 1 ≤ T ≤ 2^CNT_W with CNT_W = 16. -/
  timeoutPred : Fin 65536
  /-- S, with 0 ≤ S ≤ 2^CNT_W. -/
  settle : Fin 65537
deriving DecidableEq, Repr

/-- T (TIMEOUT_POLLS): the most polls of every bounded wait, carrier, header and data alike (R7, R123). -/
def Params.T (p : Params) : Nat := p.timeoutPred.val + 1

/-- S (SETTLE_TICKS): the length of every settle delay in ticks (R7). -/
def Params.S (p : Params) : Nat := p.settle.val

/-- CNT_W, the width of the shared tick counter (R7, D23). -/
def Config.cntW : Nat := 16

/-- ROWS (R7). -/
def Config.rows : Nat := 11

/-- COLS (R7). -/
def Config.cols : Nat := 5

/-- DATA_ROWS: rows 0 to 9 have their parity checked and feed the identifier (R7). -/
def Config.dataRows : Nat := 10

/-- DATA_COLS: columns 0 to 3 feed the identifier and have their parity checked (R7). -/
def Config.dataCols : Nat := 4

/-- HEADER_EDGES (R7). -/
def Config.headerEdges : Nat := 8

/-- ID_BYTES (R7; spec/90_conflicts.md C1: five, not four). -/
def Config.idBytes : Nat := 5

/-- The default of T, 600 (R7, D7). The spec says "≈600 ... unaudited" of it; no statement rests on it (log 3). -/
def Config.defaultTimeoutPred : Fin 65536 := 599

/-- FREE VALUE: S of a build that names none. R7 leaves S OPEN with no default (D8), so it has no body (log 3). -/
opaque Config.openSettle : Fin 65537

/-- FREE VALUE: the input word the host and the environment present at edge number `n` when the state lists no
word for that edge. R112 lets them present any level and any `start` and `rst` at any edge (log 4). -/
opaque Config.envWord : Nat → InputWord

/-- FREE VALUE: TICK_PERIOD, the length of one tick in some unit of time. R7 leaves it OPEN; no rule of the step
depends on it (D9, log 5). -/
opaque Config.tickPeriod : Nat

/-- The parameters of a build with the default T and the open S. -/
def Params.build : Params := { timeoutPred := Config.defaultTimeoutPred, settle := Config.openSettle }

/-- The time from a START edge to the `k`-th edge after it, in units of `tickPeriod` (R265). -/
def Config.elapsed (k : Nat) : Nat := k * Config.tickPeriod

end Sys2Proof
end

