-- ==== Sys2Proof/Machine/State.lean ====
section
/-! DEFINITION. The state of the block as plain data (spec/10_state.md), its value at reset (R40), and the reasons a
step could stop. -/

namespace Sys2Proof.Machine

/-- The whole register state of the block: "A model's state record has exactly these fields" (spec/10_state.md;
R20 to R31, 83 bits by R41). Outside `regs` the model's `State` holds only what is not a register of the block. -/
structure Regs where
  /-- The state of the finite-state machine, which plays the part of a program counter (R20). -/
  state : FsmState
  /-- The shared tick counter, CNT_W = 16 bits (R21). -/
  cnt : BitVec 16
  /-- Header edges confirmed so far (R22). -/
  hdr : BitVec 4
  /-- The frame row being captured (R23). -/
  row : BitVec 4
  /-- The column being captured (R24). -/
  col : BitVec 3
  /-- The level sampled at the most recent BIT_SAMPLE (R25). -/
  dat : Bool
  /-- The row-parity accumulator (R26). -/
  rowpar : Bool
  /-- The five column-parity accumulators (R27). -/
  colpar : Vector Bool 5
  /-- The timeout flag (R28). -/
  tof : Bool
  /-- The identifier buffer (R29, R50). -/
  idbuf : Vector Byte 5
  /-- The outcome of the most recent decode (R30). -/
  result : ResultCode
  /-- The completion pulse (R31). -/
  done : Bool
deriving DecidableEq, Repr

/-- The reset value of every register (R40, R250). -/
def Regs.reset : Regs where
  state := .idle
  cnt := 0
  hdr := 0
  row := 0
  col := 0
  dat := false
  rowpar := false
  colpar := Vector.replicate 5 false
  tof := false
  idbuf := Vector.replicate 5 0
  result := .none
  done := false

/-- The machine: the block's registers, and three fields of the model's own. -/
structure State where
  /-- The registers of the block, all of its state. -/
  regs : Regs
  /-- MODEL'S OWN: the build-time parameters T and S (R7), which no step changes (R36; log 3). -/
  params : Params
  /-- MODEL'S OWN: the input words the host and the environment present at the coming edges, the next one first
  (R74, R112; log 4). -/
  inputs : List InputWord
  /-- MODEL'S OWN: how many edges have passed; `Config.envWord` is read at it when `inputs` is empty (log 4). -/
  edge : Nat
deriving DecidableEq, Repr

/-- Reasons a step stops with a fault. There are none: "Failures are completions, not traps" (R221), and no input word
is illegal (R81). An empty list is safe here because the spec gives every input word in every state an effect. -/
inductive Fault where
deriving DecidableEq, Repr

/-- Reasons a step is refused. -/
inductive Refusal where
  /-- Raised only by an arm of `exec` for a row of the opcode table that has no meaning yet; no arm does so.
  Safe: the machine stops and claims nothing of the row. -/
  | notModelled (mnemonic : String)
deriving DecidableEq, Repr

/-- The three states a settle delay can lead to (R122). -/
inductive SettleTarget where
  | syncCheck
  | hdrCheck
  | bitSample
deriving DecidableEq, Repr

/-- The machine after one reset edge (R251 lets a model start here; log 1): every register as R40 states, the build
with the default T and the open S (log 3), and no input word listed (log 4). -/
def State.reset : State where
  regs := Regs.reset
  params := Params.build
  inputs := []
  edge := 0

/-- The state with other registers and everything else unchanged. -/
def State.setRegs (s : State) (r : Regs) : State := { s with regs := r }

end Sys2Proof.Machine
end

