-- ==== Sys2Proof/Machine/Operands.lean ====
section
/-! DEFINITION. What the operations read of the registers besides the two operands `line` and `start` that the input
word gives (R77): the tests on `row`, `col`, `cnt` and `hdr`, and the byte of the identifier buffer a row selects.
Comparisons are exact on natural numbers (R9). -/

namespace Sys2Proof.Machine

/-- Whether this poll is the T-th that reads the waited level: `cnt + 1 == T` (R120). -/
def lastPoll (p : Params) (r : Regs) : Bool := decide (r.cnt.toNat + 1 = p.T)

/-- Whether this is the last of the S settle ticks: `cnt + 1 == S` (R122). -/
def lastSettleTick (p : Params) (r : Regs) : Bool := decide (r.cnt.toNat + 1 = p.S)

/-- Whether the row is one whose parity is checked and whose data enters the identifier: `row <= 9` (R171, R175). -/
def inDataRow (r : Regs) : Bool := decide (r.row.toNat < Config.dataRows)

/-- Whether the column is one of the four data columns: `col <= 3` (R171, R175). -/
def inDataCol (r : Regs) : Bool := decide (r.col.toNat < Config.dataCols)

/-- The byte of the identifier buffer the row's data bits go to: `row >> 1` (R51). -/
def byteIndex (r : Regs) : Nat := r.row.toNat >>> 1

/-- Whether confirming one more header edge makes eight: `h == 8` for `h = hdr + 1` (R146). -/
def lastHeaderEdge (r : Regs) : Bool := decide (r.hdr.toNat + 1 = Config.headerEdges)

/-- The check or sample state a settle delay leads to (R122). -/
def SettleTarget.state : SettleTarget → FsmState
  | .syncCheck => .syncCheck
  | .hdrCheck => .hdrCheck
  | .bitSample => .bitSample

/-- The settle state that belongs to a check or sample state (R122). -/
def SettleTarget.settleState : SettleTarget → FsmState
  | .syncCheck => .syncSettle
  | .hdrCheck => .hdrSettle
  | .bitSample => .bitSettle

end Sys2Proof.Machine
end

