-- ==== Sys2Proof/Machine/Flags.lean ====
section
/-! DEFINITION. The block's flags: the row and column parity accumulators and the timeout flag (R26 to R28), how a
sample updates them (R173, R174) and what the two checks ask of them (R200, R201). -/

namespace Sys2Proof.Machine

/-- The exclusive-or of some bits: the low bit of their sum (R9, D16). -/
def parity (bits : List Bool) : Bool := bits.foldl Bool.xor false

/-- `rowpar xor b` (R173). -/
def rowparAfter (b : Bool) (r : Regs) : Bool := r.rowpar ^^ b

/-- `colpar[col] xor b` in its place, the other columns as they were (R174). There is no `colpar[5]` to `[7]`: a `col`
above 4, which no reachable state holds (R38), changes none (log 8). -/
def colparAfter (b : Bool) (r : Regs) : Vector Bool 5 :=
  r.colpar.setIfInBounds r.col.toNat (r.colpar[r.col.toNat]?.getD false ^^ b)

/-- `tof or to`, the timeout flag after this edge (R200, R201). -/
def timedOutAfter (timedOut : Bool) (r : Regs) : Bool := r.tof || timedOut

/-- Whether the row-end check fails: odd row parity or a timeout (R200). -/
def rowFails (timedOut : Bool) (r : Regs) : Bool := r.rowpar || timedOutAfter timedOut r

/-- Whether one of columns 0 to 3 is odd (R201); column 4 is not asked (R205, C3). -/
def someColumnOdd (r : Regs) : Bool := r.colpar[0] || r.colpar[1] || r.colpar[2] || r.colpar[3]

end Sys2Proof.Machine
end

