-- ==== Sys2Proof/Machine/Ops.lean ====
section
/-! DEFINITION. The named micro-operations of R10 on the registers: completion, the settle delay, the bounded wait, the
identifier buffer, the start of a decode and the reset. A register an operation does not name keeps its value (R10). -/

namespace Sys2Proof.Machine

/-- `done <- 0`, what every edge with `rst = 0` does before its operation (R101). -/
def clearDone (r : Regs) : Regs := { r with done := false }

/-- `finish(code)`: the one way a decode ends, and this block's whole "trap entry" (R104, R221, R226). -/
def finish (code : ResultCode) (r : Regs) : Regs :=
  { r with state := .idle, cnt := 0, result := code, done := true }

/-- What an accepted START does: the next decode begins afresh and restores nothing (R103, R227). -/
def beginDecode (r : Regs) : Regs :=
  { r with
    state := .idleWait
    cnt := 0
    hdr := 0
    row := 0
    col := 0
    dat := false
    rowpar := false
    colpar := Vector.replicate 5 false
    tof := false
    idbuf := Vector.replicate 5 0
    result := .none }

/-- Entry into a state with the counter at 0, as "every transition into a wait, settle, check or sample state" (R21). -/
def enter (f : FsmState) (r : Regs) : Regs := { r with state := f, cnt := 0 }

/-- `settle_then(X)`: enter the settle delay before X, or X itself when S is 0 (R122). -/
def settleThen (p : Params) (x : SettleTarget) (r : Regs) : Regs :=
  if p.S = 0 then enter x.state r else enter x.settleState r

/-- `settle_step(X)`: one settle tick (R122). -/
def settleStep (p : Params) (x : SettleTarget) (r : Regs) : Regs :=
  if lastSettleTick p r then enter x.state r else { r with cnt := r.cnt + 1 }

/-- `wait_step(level, on_edge, on_timeout)`: one poll of a bounded wait, the edge test first (R120). -/
def waitStep (p : Params) (level line : Bool) (onEdge onTimeout : Regs → Regs) (r : Regs) : Regs :=
  if line ≠ level then onEdge r
  else if lastPoll p r then onTimeout r
  else { r with cnt := r.cnt + 1 }

/-- `IdRead(j)`, one byte of the identifier buffer; the buffer has bytes 0 to 4 and no other index arises (R50, R51). -/
def idRead (r : Regs) (j : Nat) : Byte := r.idbuf[j]?.getD 0

/-- `IdWrite(j, v)`: one byte written, the others unchanged (R50, R56). -/
def idWrite (j : Nat) (v : Byte) (r : Regs) : Vector Byte 5 := r.idbuf.setIfInBounds j v

/-- `((v << 1) | b)[7:0]`: bit 7 dropped, the new bit at bit 0 (R52, R172). -/
def shiftIn (v : Byte) (b : Bool) : Byte := (v <<< 1) ||| (BitVec.ofBool b).zeroExtend 8

/-- The identifier buffer after a sample: only data bits are shifted in (R172). -/
def idbufAfter (b : Bool) (r : Regs) : Vector Byte 5 :=
  if inDataRow r && inDataCol r then idWrite (byteIndex r) (shiftIn (idRead r (byteIndex r)) b) r
  else r.idbuf

/-- `row_end(to)`: the row-end check of rows 0 to 9 and the advance to the next row (R200). -/
def rowEnd (p : Params) (timedOut : Bool) (r : Regs) : Regs :=
  if rowFails timedOut r then finish .rowParityError r
  else settleThen p .bitSample { r with row := r.row + 1, col := 0, rowpar := false }

/-- `final_check(to)`: the validation after row 10, a timeout before an odd column (R201). -/
def finalCheck (timedOut : Bool) (r : Regs) : Regs :=
  if timedOutAfter timedOut r then finish .timeout r
  else if someColumnOdd r then finish .columnParityError r
  else finish .ok r

/-- `column_end(to)`: the next column, or the check that ends the row (R175, R176). -/
def columnEnd (p : Params) (timedOut : Bool) (r : Regs) : Regs :=
  if !timedOut && inDataCol r then settleThen p .bitSample { r with col := r.col + 1 }
  else if inDataRow r then rowEnd p timedOut r
  else finalCheck timedOut r

/-- The step of an edge with `rst = 0` on the whole state: `done` clears, then the operation runs (R100, R101). -/
def State.tickWith (s : State) (op : Regs → Regs) : State := s.setRegs (op (clearDone s.regs))

end Sys2Proof.Machine
end

