-- ==== Sys2Proof/Machine/Carrier.lean ====
section
/-! DEFINITION. The carrier wait and the sync check (spec/42_carrier_and_header.md R140 to R142). -/

namespace Sys2Proof.Machine

/-- IDLE_WAIT: poll for the line to go low, NoCarrier after T high polls (R140). -/
def execIdleWait (line : Bool) (s : State) : Host.Outcome State Fault Refusal :=
  .next (s.tickWith (waitStep s.params true line (settleThen s.params .syncCheck) (finish .noCarrier)))

/-- SYNC_SETTLE: the settle delay before the sync check; the line is ignored (R141). -/
def execSyncSettle (_line : Bool) (s : State) : Host.Outcome State Fault Refusal :=
  .next (s.tickWith (settleStep s.params .syncCheck))

/-- SYNC_CHECK: the line must read high, else FramingError (R142). -/
def execSyncCheck (line : Bool) (s : State) : Host.Outcome State Fault Refusal :=
  .next (s.tickWith fun r => if line then enter .hdrWait r else finish .framingError r)

end Sys2Proof.Machine
end

