-- ==== Sys2Proof/Machine/Header.lean ====
section
/-! DEFINITION. The header scan (spec/42_carrier_and_header.md R143 to R146). -/

namespace Sys2Proof.Machine

/-- HDR_WAIT: poll for a high-to-low header edge, HeaderTimeout after T high polls of one round (R144). -/
def execHdrWait (line : Bool) (s : State) : Host.Outcome State Fault Refusal :=
  .next (s.tickWith (waitStep s.params true line (settleThen s.params .hdrCheck) (finish .headerTimeout)))

/-- HDR_SETTLE: the settle delay after a header edge; the line is ignored (R145). -/
def execHdrSettle (_line : Bool) (s : State) : Host.Outcome State Fault Refusal :=
  .next (s.tickWith (settleStep s.params .hdrCheck))

/-- A header check that read high: the edge counts, and the eighth one locks the header (R146). -/
def confirmHeaderEdge (p : Params) (r : Regs) : Regs :=
  if lastHeaderEdge r then settleThen p .bitSample { r with hdr := r.hdr + 1 }
  else enter .hdrWait { r with hdr := r.hdr + 1 }

/-- HDR_CHECK: the line must be high again, else FramingError with `hdr` as it was (R146). -/
def execHdrCheck (line : Bool) (s : State) : Host.Outcome State Fault Refusal :=
  .next (s.tickWith fun r => if line then confirmHeaderEdge s.params r else finish .framingError r)

end Sys2Proof.Machine
end

