-- ==== Sys2Proof/Machine/Sampler.lean ====
section
/-! DEFINITION. The bit-matrix sampler (spec/43_matrix_sampler.md R170 to R177) and the two checks that BIT_WAIT invokes,
as table rows of their own (spec/44_parity_check.md R200, R201). -/

namespace Sys2Proof.Machine

/-- BIT_SETTLE: the settle delay before a data sample; the line is ignored (R170). -/
def execBitSettle (_line : Bool) (s : State) : Host.Outcome State Fault Refusal :=
  .next (s.tickWith (settleStep s.params .bitSample))

/-- One bit sampled and folded into the identifier and the accumulators, all from the values before the edge (R171). -/
def sampleBit (b : Bool) (r : Regs) : Regs :=
  { r with
    dat := b
    idbuf := idbufAfter b r
    rowpar := rowparAfter b r
    colpar := colparAfter b r
    state := .bitWait
    cnt := 0 }

/-- BIT_SAMPLE: sample bit (row, col) (R171 to R174). -/
def execBitSample (line : Bool) (s : State) : Host.Outcome State Fault Refusal :=
  .next (s.tickWith (sampleBit line))

/-- What a data-edge timeout does: `tof <- 1`, then the column ends with `to = 1` (R175, R177). -/
def dataTimeout (p : Params) (r : Regs) : Regs := columnEnd p true { r with tof := true }

/-- BIT_WAIT: wait for the line to leave the sampled level, then end the column (R175). -/
def execBitWait (line : Bool) (s : State) : Host.Outcome State Fault Refusal :=
  .next (s.tickWith fun r => waitStep s.params r.dat line (columnEnd s.params false) (dataTimeout s.params) r)

/-- BIT_WAIT.ROW_END: the micro-operation `row_end(to)` by itself (R200). -/
def execBitWaitRowEnd (timedOut : Bool) (s : State) : Host.Outcome State Fault Refusal :=
  .next (s.tickWith (rowEnd s.params timedOut))

/-- BIT_WAIT.FINAL_CHECK: the micro-operation `final_check(to)` by itself (R201). -/
def execBitWaitFinalCheck (timedOut : Bool) (s : State) : Host.Outcome State Fault Refusal :=
  .next (s.tickWith (finalCheck timedOut))

end Sys2Proof.Machine
end

