-- ==== Sys2Proof/Machine/Control.lean ====
section
/-! DEFINITION. RESET, IDLE, the unused codes, TICK and START (spec/40_control.md, spec/70_reset_and_hazards.md R250). -/

namespace Sys2Proof.Machine

/-- RESET: every register takes its reset value, whatever the other inputs and the state are (R250, R72). -/
def execReset (_start _line : Bool) (s : State) : Host.Outcome State Fault Refusal :=
  .next (s.setRegs Regs.reset)

/-- IDLE with `start = 0`: nothing changes but `done <- 0` (R102). -/
def execIdle (_line : Bool) (s : State) : Host.Outcome State Fault Refusal :=
  .next (s.tickWith id)

/-- ILLEGAL_10_11: recovery from the unused codes 10 and 11, `finish(NONE)` (R109). -/
def execIllegal10to11 (_code : StateCode) (_line : Bool) (s : State) : Host.Outcome State Fault Refusal :=
  .next (s.tickWith (finish .none))

/-- ILLEGAL_12_15: recovery from the unused codes 12 to 15, `finish(NONE)` (R109). -/
def execIllegal12to15 (_code : StateCode) (_line : Bool) (s : State) : Host.Outcome State Fault Refusal :=
  .next (s.tickWith (finish .none))

/-- TICK: the operation of the current state code with the sampled line (R74, R100). -/
def execTick (line : Bool) (s : State) : Host.Outcome State Fault Refusal :=
  match s.regs.state with
  | .idle => execIdle line s
  | .idleWait => execIdleWait line s
  | .syncSettle => execSyncSettle line s
  | .syncCheck => execSyncCheck line s
  | .hdrWait => execHdrWait line s
  | .hdrSettle => execHdrSettle line s
  | .hdrCheck => execHdrCheck line s
  | .bitSettle => execBitSettle line s
  | .bitSample => execBitSample line s
  | .bitWait => execBitWait line s
  | .unused k =>
    if k.val ≤ 1 then execIllegal10to11 s.regs.state.code line s else execIllegal12to15 s.regs.state.code line s

/-- START: a decode begins if the state is IDLE, and in every other state the word acts as TICK (R74, R103, R111). -/
def execStart (line : Bool) (s : State) : Host.Outcome State Fault Refusal :=
  match s.regs.state with
  | .idle => .next (s.tickWith beginDecode)
  | .idleWait => execTick line s
  | .syncSettle => execTick line s
  | .syncCheck => execTick line s
  | .hdrWait => execTick line s
  | .hdrSettle => execTick line s
  | .hdrCheck => execTick line s
  | .bitSettle => execTick line s
  | .bitSample => execTick line s
  | .bitWait => execTick line s
  | .unused _ => execTick line s

end Sys2Proof.Machine
end

