-- ==== Sys2Proof/Machine/Dispatch.lean ====
section
/-! DEFINITION. One arm per constructor of Instr, each one direct call of the instruction's meaning. -/

namespace Sys2Proof.Machine

/-- What the machine does with one instruction. -/
def exec (i : Instr) (s : State) : Host.Outcome State Fault Refusal :=
  match i with
  -- the input words (format input3)
  | .reset start line => Sys2Proof.Machine.execReset start line s
  | .start line => Sys2Proof.Machine.execStart line s
  | .tick line => Sys2Proof.Machine.execTick line s
  -- the state codes (format state4)
  | .idle line => Sys2Proof.Machine.execIdle line s
  | .idleWait line => Sys2Proof.Machine.execIdleWait line s
  | .syncSettle line => Sys2Proof.Machine.execSyncSettle line s
  | .syncCheck line => Sys2Proof.Machine.execSyncCheck line s
  | .hdrWait line => Sys2Proof.Machine.execHdrWait line s
  | .hdrSettle line => Sys2Proof.Machine.execHdrSettle line s
  | .hdrCheck line => Sys2Proof.Machine.execHdrCheck line s
  | .bitSettle line => Sys2Proof.Machine.execBitSettle line s
  | .bitSample line => Sys2Proof.Machine.execBitSample line s
  | .bitWait line => Sys2Proof.Machine.execBitWait line s
  -- the two micro-operations of BIT_WAIT
  | .bitWaitRowEnd timedOut => Sys2Proof.Machine.execBitWaitRowEnd timedOut s
  | .bitWaitFinalCheck timedOut => Sys2Proof.Machine.execBitWaitFinalCheck timedOut s
  -- the unused codes
  | .illegal10to11 code line => Sys2Proof.Machine.execIllegal10to11 code line s
  | .illegal12to15 code line => Sys2Proof.Machine.execIllegal12to15 code line s

end Sys2Proof.Machine
end

