-- ==== Sys2Proof/Machine/Fetch.lean ====
section
/-! DEFINITION. How an edge gets its instruction: the input word sampled at the edge (R74) together with the state code
the registers hold (R86). The words come from the host and the environment (R112; log 4). -/

namespace Sys2Proof.Machine

/-- The input word presented at the `k`-th edge from now: the listed one, or else the environment's own (log 4). -/
def State.wordAt (s : State) (k : Nat) : InputWord := s.inputs[k]?.getD (Config.envWord (s.edge + k))

/-- The input word sampled at the next edge. -/
def State.inputWord (s : State) : InputWord := s.wordAt 0

/-- The instruction the next edge performs (R86). -/
def State.fetch (s : State) : Instr := decodeEdge s.inputWord s.regs.state.code

/-- The machine once the next edge has sampled its input word: the word is used up, the registers are untouched. -/
def State.passEdge (s : State) : State := { s with inputs := s.inputs.tail, edge := s.edge + 1 }

/-- The machine once `k` edges have sampled their words, with the registers untouched. -/
def State.afterEdges (s : State) (k : Nat) : State := { s with inputs := s.inputs.drop k, edge := s.edge + k }

/-- `w` presented at the next edge in place of the word listed for it. -/
def State.present (s : State) (w : InputWord) : State := { s with inputs := w :: s.inputs.tail }

/-- A word of the opcode table made the instruction of the next edge (log 7): an input word is presented, a state code
is put in `state` and met with the word the rest of its byte gives. -/
def State.presentTableWord (s : State) (nbits w : Nat) : State :=
  if nbits = 3 then s.present (BitVec.ofNat 3 w)
  else
    let b : Byte := BitVec.ofNat 8 w
    (s.setRegs { s.regs with state := FsmState.ofCode (byteCode b) }).present (byteWord b)

end Sys2Proof.Machine
end

