-- ==== Sys2Proof/Machine/Step.lean ====
section
/-! DEFINITION. One step of the machine is one rising edge of `clk` (R3, R71, R100). -/

namespace Sys2Proof.Machine

/-- One edge: the input word is sampled and used up, and the instruction it makes with the state code runs. -/
def step (s : State) : Host.Outcome State Fault Refusal := exec s.fetch s.passEdge

/-- The state whose next edge performs the instruction of a word of spec/opcode_table.json (log 7). -/
def State.withFetchWord (s : State) (nbits w : Nat) : State := s.presentTableWord nbits w

end Sys2Proof.Machine
end

