-- ==== Sys2Proof/Machine/Stimulus.lean ====
section
/-! DEFINITION. The stimulus notation (R83 to R85), the "assembly language" of this block: statements and
pseudo-statements expand into the input words a host and an environment present, one word an edge. -/

namespace Sys2Proof.Machine

/-- The three statements (R83). -/
inductive Stmt where
  /-- `RESET n`. -/
  | reset (n : Nat)
  /-- `START l`. -/
  | start (level : Bool)
  /-- `LINE l n`. -/
  | line (level : Bool) (n : Nat)
deriving DecidableEq, Repr

/-- The words a statement expands to (R83). -/
def Stmt.words : Stmt → List InputWord
  | .reset n => List.replicate n (InputWord.ofBits true false false)
  | .start level => [InputWord.ofBits false true level]
  | .line level n => List.replicate n (InputWord.ofBits false false level)

/-- The words a list of statements expands to. -/
def stimulus (stmts : List Stmt) : List InputWord := stmts.flatMap Stmt.words

/-- `SYNC`, for a settle delay of `settle` ticks (R84). -/
def stmtSync (settle : Nat) : List Stmt := [.line false 1, .line true (settle + 1)]

/-- `HEDGE` (R84). -/
def stmtHedge (settle : Nat) : List Stmt := [.line false 1, .line true (settle + 1)]

/-- `MBIT b` (R84). -/
def stmtMbit (settle : Nat) (b : Bool) : List Stmt := [.line b (settle + 1), .line (!b) 1]

/-- `FRAMEB m0 … m10`: the header, then every bit, row by row (R84). -/
def stmtFrameb (settle : Nat) (rows : List (List Bool)) : List Stmt :=
  stmtSync settle ++ (List.replicate Config.headerEdges (stmtHedge settle)).flatten ++
    rows.flatten.flatMap (stmtMbit settle)

/-- A data bit of the frame of `x`: `X[39 - (4r + c)]` (R85). -/
def dataBit (x : Identifier) (r c : Nat) : Bool := x.getLsbD (39 - (4 * r + c))

/-- Bit (r, c) of the frame matrix of `x`: data, even row parity, even column parity, and 0 at (10, 4) (R85). -/
def frameBit (x : Identifier) (r c : Nat) : Bool :=
  if r < Config.dataRows then
    if c < Config.dataCols then dataBit x r c
    else parity ((List.range Config.dataCols).map (dataBit x r))
  else
    if c < Config.dataCols then parity ((List.range Config.dataRows).map fun r => dataBit x r c)
    else false

/-- The eleven five-bit rows of the frame of `x` (R85). -/
def frameRows (x : Identifier) : List (List Bool) :=
  (List.range Config.rows).map fun r => (List.range Config.cols).map (frameBit x r)

/-- `FRAME X` (R84). -/
def stmtFrame (settle : Nat) (x : Identifier) : List Stmt := stmtFrameb settle (frameRows x)

/-- An encoding as R83 writes it: the words as runs `word × count`. -/
def runLengths : List InputWord → List (InputWord × Nat)
  | [] => []
  | w :: rest =>
    match runLengths rest with
    | (w', n) :: runs => if w = w' then (w', n + 1) :: runs else (w, 1) :: (w', n) :: runs
    | [] => [(w, 1)]

end Sys2Proof.Machine
end

