-- ==== Sys2Proof/Machine/Outputs.lean ====
section
/-! DEFINITION. The four outputs, functions of the registers alone (R70, R76, R110). -/

namespace Sys2Proof.Machine

/-- `busy = (state != IDLE)` (R32). -/
def Regs.busy (r : Regs) : Bool := decide (r.state ≠ .idle)

/-- The five bytes of the buffer, byte 0 most significant (R53, R54). -/
def Regs.identifier (r : Regs) : Identifier :=
  r.idbuf[0] ++ r.idbuf[1] ++ r.idbuf[2] ++ r.idbuf[3] ++ r.idbuf[4]

/-- `id_out`: the identifier while `result = OK`, else 0 (R33). -/
def Regs.idOut (r : Regs) : Identifier := if r.result = .ok then r.identifier else 0

/-- The output ports of R70 with their widths. -/
structure Outputs where
  busy : Bool
  done : Bool
  result : BitVec 3
  idOut : Identifier
deriving DecidableEq, Repr

/-- What a host reads between two edges, all from the same edge (R56, R59). -/
def Regs.outputs (r : Regs) : Outputs :=
  { busy := r.busy, done := r.done, result := r.result.code, idOut := r.idOut }

end Sys2Proof.Machine
end

