-- ==== Sys2Proof/Safety.lean ====
section
/-! DEFINITION. What statements say of runs: the invariant of reachable states (R38), the bits a decode has sampled so
far and what the registers owe to them (R38, R52, R204), and how many edges a decode may still take (R263). -/

namespace Sys2Proof

/-! ## Kinds of states -/

/-- The states of bounded waits (R120). -/
def FsmState.isWait : FsmState → Bool
  | .idleWait | .hdrWait | .bitWait => true
  | .idle | .syncSettle | .syncCheck | .hdrSettle | .hdrCheck | .bitSettle | .bitSample | .unused _ => false

/-- The settle states (R122). -/
def FsmState.isSettle : FsmState → Bool
  | .syncSettle | .hdrSettle | .bitSettle => true
  | .idle | .idleWait | .syncCheck | .hdrWait | .hdrCheck | .bitSample | .bitWait | .unused _ => false

/-- The states of the carrier wait and the sync check (spec/42_carrier_and_header.md sections 1 and 2). -/
def FsmState.isCarrier : FsmState → Bool
  | .idleWait | .syncSettle | .syncCheck => true
  | .idle | .hdrWait | .hdrSettle | .hdrCheck | .bitSettle | .bitSample | .bitWait | .unused _ => false

/-- The states of the header scan (R143). -/
def FsmState.isHeader : FsmState → Bool
  | .hdrWait | .hdrSettle | .hdrCheck => true
  | .idle | .idleWait | .syncSettle | .syncCheck | .bitSettle | .bitSample | .bitWait | .unused _ => false

/-- The states of the matrix sampler (spec/43_matrix_sampler.md). -/
def FsmState.isBit : FsmState → Bool
  | .bitSettle | .bitSample | .bitWait => true
  | .idle | .idleWait | .syncSettle | .syncCheck | .hdrWait | .hdrSettle | .hdrCheck | .unused _ => false

/-- Whether the code is one of the unused ones (R79). -/
def FsmState.isUnused : FsmState → Bool
  | .unused _ => true
  | .idle | .idleWait | .syncSettle | .syncCheck | .hdrWait | .hdrSettle | .hdrCheck | .bitSettle | .bitSample
  | .bitWait => false

end Sys2Proof

namespace Sys2Proof.Machine

/-! ## The invariant of reachable states -/

/-- R38 items 1 to 5, and `hdr = 0` in the carrier states, which R38 leaves out and which makes the invariant one that
every step keeps. -/
abbrev Regs.Inv (p : Params) (r : Regs) : Prop :=
  r.state.isUnused = false ∧
  (r.state.isWait = true → r.cnt.toNat ≤ p.T - 1) ∧
  (r.state.isSettle = true → 1 ≤ p.S ∧ r.cnt.toNat ≤ p.S - 1) ∧
  (r.state.isWait = false → r.state.isSettle = false → r.cnt = 0) ∧
  r.hdr.toNat ≤ 8 ∧
  (r.state.isCarrier = true → r.hdr = 0) ∧
  (r.state.isHeader = true → r.hdr.toNat ≤ 7) ∧
  (r.state.isBit = true → r.hdr.toNat = 8) ∧
  r.row.toNat ≤ 10 ∧
  r.col.toNat ≤ 4 ∧
  (r.state.isCarrier = true ∨ r.state.isHeader = true → r.row = 0 ∧ r.col = 0) ∧
  (r.state ≠ .idle → r.result = .none ∧ r.done = false ∧ r.tof = false)

/-- The invariant on the whole state. -/
abbrev State.Inv (s : State) : Prop := s.regs.Inv s.params

/-! ## The bits of a decode

The bits sampled since the last START, first one first: bit (r, c) has index `5r + c` (R178). -/

/-- Bit (r, c), 0 while it is not sampled. -/
def bitAt (bits : List Bool) (r c : Nat) : Bool := bits.getD (5 * r + c) false

/-- The parity of the bits sampled in row `r` so far. -/
def rowSum (bits : List Bool) (r : Nat) : Bool := parity ((List.range 5).map (bitAt bits r))

/-- The parity of the bits sampled in column `c` so far. -/
def colSum (bits : List Bool) (c : Nat) : Bool := parity ((List.range 11).map fun r => bitAt bits r c)

/-- Whether the bit of index `n` is a data bit that goes to byte `j`: rows 0 to 9, columns 0 to 3, `j = row >> 1`
(R51, R178). -/
def goesToByte (j n : Nat) : Bool := decide (n / 5 < 10 ∧ n % 5 < 4 ∧ n / 5 / 2 = j)

/-- What byte `j` holds once these bits are sampled: the last 8 of its data bits, zeros where there are fewer
(R38 item 7). -/
def byteOf (bits : List Bool) (j : Nat) : Byte :=
  (((List.range bits.length).filter (goesToByte j)).map fun n => bits.getD n false).foldl
    (fun v b => BitVec.ofNat 8 (2 * v.toNat + b.toNat)) 0

/-- The bits after the next edge: a reset or an accepted START forgets them, BIT_SAMPLE adds one. -/
def State.bitsAfter (s : State) (bits : List Bool) : List Bool :=
  if s.inputWord.rst then []
  else match s.regs.state with
    | .idle => if s.inputWord.start then [] else bits
    | .bitSample => bits ++ [s.inputWord.line]
    | .idleWait | .syncSettle | .syncCheck | .hdrWait | .hdrSettle | .hdrCheck | .bitSettle | .bitWait
    | .unused _ => bits

/-- What the registers owe to the sampled bits (R38 items 6 and 7), with the number of bits a capture state has seen
and the parity of the rows it has passed. -/
abbrev Regs.Captured (r : Regs) (bits : List Bool) : Prop :=
  (r.state.isCarrier = true ∨ r.state.isHeader = true → bits = []) ∧
  (r.state.isBit = true →
    bits.length = 5 * r.row.toNat + r.col.toNat + (if r.state = .bitWait then 1 else 0)) ∧
  (r.state = .bitWait → r.dat = bitAt bits r.row.toNat r.col.toNat) ∧
  (r.state.isBit = true → ∀ k < r.row.toNat, rowSum bits k = false) ∧
  r.rowpar = rowSum bits r.row.toNat ∧
  (∀ c : Fin 5, r.colpar[c] = colSum bits c) ∧
  (∀ j : Fin 5, r.idbuf[j] = byteOf bits j)

/-- The states a block can reach from reset under any inputs, each with the bits sampled since its last START. -/
inductive Reached : State → List Bool → Prop where
  /-- The registers at their reset values, with any build and any inputs to come. -/
  | reset (s : State) (h : s.regs = Regs.reset) : Reached s []
  /-- One edge more. -/
  | edge (s t : State) (bits : List Bool) (hs : Reached s bits) (h : step s = .next t) : Reached t (s.bitsAfter bits)

/-! ## Latency

A decode is 64 segments of at most `T + S + 1` edges (R263). -/

/-- The segments of the decode that come after the current one. -/
def Regs.segmentsAfter (r : Regs) : Nat :=
  match r.state with
  | .idle | .unused _ => 0
  | .idleWait | .syncSettle | .syncCheck => 63
  | .hdrWait | .hdrSettle | .hdrCheck => 62 - r.hdr.toNat
  | .bitSettle | .bitSample | .bitWait => 54 - (5 * r.row.toNat + r.col.toNat)

/-- The most edges left in the current segment. -/
def Regs.edgesInSegment (p : Params) (r : Regs) : Nat :=
  match r.state with
  | .idle => 0
  | .unused _ => 1
  | .idleWait | .hdrWait => (p.T - r.cnt.toNat) + p.S + 1
  | .syncSettle | .hdrSettle => (p.S - r.cnt.toNat) + 1
  | .syncCheck | .hdrCheck => 1
  | .bitSettle => (p.S - r.cnt.toNat) + 1 + p.T
  | .bitSample => 1 + p.T
  | .bitWait => p.T - r.cnt.toNat

/-- The most edges the decode in progress may still take. -/
def State.edgesLeft (s : State) : Nat :=
  s.regs.segmentsAfter * (s.params.T + s.params.S + 1) + s.regs.edgesInSegment s.params

/-- No `rst` at the next `k` edges. -/
abbrev State.noReset (s : State) (k : Nat) : Prop := ∀ i < k, (s.wordAt i).rst = false

/-! ## Safe runs -/

/-- A safe edge takes a next state: the block has no traps (R221). -/
def State.safeEdge (s : State) : Prop := ∃ t, step s = .next t

/-- `k` edges from `s` in a row. -/
def State.runEdges (s : State) : Nat → Host.Outcome State Fault Refusal
  | 0 => .next s
  | k + 1 =>
    match step s with
    | .next t => t.runEdges k
    | .fault r => .fault r
    | .refused r => .refused r

end Sys2Proof.Machine
end

