-- ==== Sys2Proof/Certificates/Slice0/Obligations.lean ====
section
/-! DEFINITION. The statements for the provers. Each docstring names the rule of spec/ its statement formalises. An
equation `exec i s = .next { s with regs := { s.regs with … } }` is the instruction's result, its completion and its
frame at once: every field it does not name is unchanged. -/

open Sys2Proof Sys2Proof.Machine

/-! ## Reset, IDLE, START, TICK and the unused codes -/

/-- R250: RESET loads the reset value of every register in every state, for as many edges as it is held, and the
edge after it can accept a START. -/
def Obligations.ResetLoadsEveryRegister : Prop :=
  let cleared : Regs :=
    { state := .idle, cnt := 0, hdr := 0, row := 0, col := 0, dat := false, rowpar := false
      colpar := #v[false, false, false, false, false], tof := false, idbuf := #v[0, 0, 0, 0, 0]
      result := .none, done := false }
  (∀ start line code, decodeEdge (InputWord.ofBits true start line) code = .reset start line) ∧
  (∀ start line s, exec (.reset start line) s = .next { s with regs := cleared }) ∧
  (∀ (s : State) (n : Nat), 1 ≤ n → (∀ i < n, (s.wordAt i).rst = true) →
    s.runEdges n = .next ((s.afterEdges n).setRegs cleared) ∧
    ∀ line, s.wordAt n = InputWord.ofBits false true line →
      ((s.afterEdges n).setRegs cleared).fetch = .start line)

/-- spec/10_state.md section 5: the registers and outputs of the model's reset state. -/
def Obligations.ResetStateHoldsTheResetTable : Prop :=
  State.reset.regs =
    { state := .idle, cnt := 0, hdr := 0, row := 0, col := 0, dat := false, rowpar := false
      colpar := #v[false, false, false, false, false], tof := false, idbuf := #v[0, 0, 0, 0, 0]
      result := .none, done := false } ∧
  State.reset.regs.outputs = { busy := false, done := false, result := 0, idOut := 0 }

/-- R102: IDLE without START changes nothing but `done`, so the last outcome stays visible for as long as it lasts. -/
def Obligations.IdleHoldsTheOutcome : Prop :=
  (∀ line, decodeEdge (InputWord.ofBits false false line) 0 = .idle line) ∧
  (∀ line s, exec (.idle line) s = .next { s with regs := { s.regs with done := false } }) ∧
  (∀ (s : State) (n : Nat), s.regs.state = .idle → 1 ≤ n →
    (∀ i < n, (s.wordAt i).rst = false ∧ (s.wordAt i).start = false) →
    s.runEdges n = .next ((s.afterEdges n).setRegs { s.regs with done := false })) ∧
  (∀ r : Regs, ({ r with done := false } : Regs).idOut = r.idOut)

/-- R103: an accepted START re-initialises the decode state; it is accepted in IDLE alone; the next edge is the
carrier wait's first poll; `id_out` reads 0 until a decode ends in OK. -/
def Obligations.StartBeginsDecode : Prop :=
  (∀ line code, decodeEdge (InputWord.ofBits false true line) code = .start line ↔ code = 0) ∧
  (∀ line s, s.regs.state = .idle → exec (.start line) s = .next { s with regs :=
    { state := .idleWait, cnt := 0, hdr := 0, row := 0, col := 0, dat := false, rowpar := false
      colpar := #v[false, false, false, false, false], tof := false, idbuf := #v[0, 0, 0, 0, 0]
      result := .none, done := false } }) ∧
  (∀ line s, s.regs.state ≠ .idle → exec (.start line) s = exec (.tick line) s) ∧
  (∀ line s t, s.regs.state = .idle → exec (.start line) s = .next t → t.inputWord.rst = false →
    t.fetch = .idleWait t.inputWord.line ∧ t.regs.idOut = 0) ∧
  (∀ s : State, s.Inv → s.regs.state ≠ .idle → s.regs.idOut = 0) ∧
  (∀ r : Regs, r.result ≠ .ok → r.idOut = 0)

/-- spec/40_control.md section 1: TICK performs the operation of the current state code, and always completes. -/
def Obligations.TickRunsTheStateOperation : Prop :=
  ∀ line s, exec (.tick line) s = exec (decodeState s.regs.state.code line) s ∧
    ∃ r, exec (.tick line) s = .next { s with regs := r }

/-- R109: every unused code recovers through `finish(NONE)` at an edge without reset, START or not, and no reached
state holds one. -/
def Obligations.UnusedCodesRecover : Prop :=
  (∀ code line s, (Instr.illegal10to11 code line).wf = true → exec (.illegal10to11 code line) s =
    .next { s with regs := { s.regs with state := .idle, cnt := 0, result := .none, done := true } }) ∧
  (∀ code line s, (Instr.illegal12to15 code line).wf = true → exec (.illegal12to15 code line) s =
    .next { s with regs := { s.regs with state := .idle, cnt := 0, result := .none, done := true } }) ∧
  (∀ s : State, 10 ≤ s.regs.state.code.toNat → s.inputWord.rst = false → step s =
    .next (s.passEdge.setRegs { s.regs with state := .idle, cnt := 0, result := .none, done := true })) ∧
  (∀ s bits, Reached s bits → s.regs.state.code.toNat ≤ 9)

/-! ## The carrier wait, the settle delays and the header -/

/-- spec/42_carrier_and_header.md section 1: one edge of IDLE_WAIT (a `cnt + 1` past 16 bits: log 8). -/
def Obligations.IdleWaitPollsForLow : Prop :=
  ∀ line s, exec (.idleWait line) s = .next { s with regs :=
    if line = false then
      { s.regs with state := if s.params.S = 0 then .syncCheck else .syncSettle, cnt := 0, done := false }
    else if s.regs.cnt.toNat + 1 = s.params.T then
      { s.regs with state := .idle, cnt := 0, result := .noCarrier, done := true }
    else { s.regs with cnt := s.regs.cnt + 1, done := false } }

/-- spec/41_bit_timing.md section 2: one edge of each settle state, whatever the line (a `cnt + 1` past 16 bits: log 8). -/
def Obligations.SettleStatesCountTicks : Prop :=
  ∀ line s,
    exec (.syncSettle line) s = .next { s with regs :=
      if s.regs.cnt.toNat + 1 = s.params.S then { s.regs with state := .syncCheck, cnt := 0, done := false }
      else { s.regs with cnt := s.regs.cnt + 1, done := false } } ∧
    exec (.hdrSettle line) s = .next { s with regs :=
      if s.regs.cnt.toNat + 1 = s.params.S then { s.regs with state := .hdrCheck, cnt := 0, done := false }
      else { s.regs with cnt := s.regs.cnt + 1, done := false } } ∧
    exec (.bitSettle line) s = .next { s with regs :=
      if s.regs.cnt.toNat + 1 = s.params.S then { s.regs with state := .bitSample, cnt := 0, done := false }
      else { s.regs with cnt := s.regs.cnt + 1, done := false } }

/-- spec/42_carrier_and_header.md section 2: the sync check must read high. -/
def Obligations.SyncCheckNeedsHigh : Prop :=
  ∀ line s, exec (.syncCheck line) s = .next { s with regs :=
    if line = true then { s.regs with state := .hdrWait, cnt := 0, done := false }
    else { s.regs with state := .idle, cnt := 0, result := .framingError, done := true } }

/-- spec/42_carrier_and_header.md section 3: one edge of HDR_WAIT; `hdr` is only preserved (a `cnt + 1` past 16 bits: log 8). -/
def Obligations.HdrWaitPollsForLow : Prop :=
  ∀ line s, exec (.hdrWait line) s = .next { s with regs :=
    if line = false then
      { s.regs with state := if s.params.S = 0 then .hdrCheck else .hdrSettle, cnt := 0, done := false }
    else if s.regs.cnt.toNat + 1 = s.params.T then
      { s.regs with state := .idle, cnt := 0, result := .headerTimeout, done := true }
    else { s.regs with cnt := s.regs.cnt + 1, done := false } }

/-- spec/42_carrier_and_header.md section 3: a low header check fails with `hdr` as it was, a high one counts, and the
eighth leads to the first data bit. For `hdr` above 8, which no reached state holds, the sum is the model's (log 8). -/
def Obligations.HdrCheckCountsEdges : Prop :=
  ∀ line s, exec (.hdrCheck line) s = .next { s with regs :=
    if line = false then { s.regs with state := .idle, cnt := 0, result := .framingError, done := true }
    else if s.regs.hdr.toNat = 7 then
      { s.regs with
        hdr := s.regs.hdr + 1, state := if s.params.S = 0 then .bitSample else .bitSettle, cnt := 0, done := false }
    else { s.regs with hdr := s.regs.hdr + 1, state := .hdrWait, cnt := 0, done := false } }

/-- spec/42_carrier_and_header.md section 4: the matrix sampler is entered only by a high header check with seven
edges confirmed before it, and then eight are confirmed and the row and column are as they were. -/
def Obligations.OnlyTheEighthHighCheckLocks : Prop :=
  ∀ s t : State, step s = .next t → s.regs.state.isBit = false → t.regs.state.isBit = true →
    s.regs.state = .hdrCheck ∧ s.inputWord.rst = false ∧ s.inputWord.line = true ∧ s.regs.hdr.toNat = 7 ∧
      t.regs.hdr = 8 ∧ t.regs.row = s.regs.row ∧ t.regs.col = s.regs.col ∧ t.regs.done = false

/-! ## The matrix sampler and the checks -/

/-- spec/43_matrix_sampler.md section 1: BIT_SAMPLE folds the sampled bit into `dat`, the row and column parity and,
for a data bit, the byte `row >> 1`, and changes nothing else. For `col` above 4, which no reached state holds, that no
column changes is the model's choice (log 8). -/
def Obligations.BitSampleFoldsTheBit : Prop :=
  ∀ line s, ∃ colpar idbuf,
    exec (.bitSample line) s = .next { s with regs :=
      { s.regs with
        dat := line, rowpar := s.regs.rowpar ^^ line, colpar := colpar, idbuf := idbuf, state := .bitWait, cnt := 0
        done := false } } ∧
    (∀ c : Fin 5, colpar[c] = if s.regs.col.toNat = c.val then s.regs.colpar[c] ^^ line else s.regs.colpar[c]) ∧
    (∀ j : Fin 5, idbuf[j] =
      if s.regs.row.toNat ≤ 9 ∧ s.regs.col.toNat ≤ 3 ∧ s.regs.row.toNat / 2 = j.val then
        BitVec.ofNat 8 (2 * s.regs.idbuf[j].toNat + line.toNat)
      else s.regs.idbuf[j])

/-- spec/43_matrix_sampler.md section 1 and spec/44_parity_check.md section 1: one edge of BIT_WAIT, with the column
advance, the row-end check and the final check in the edge that ends the wait. A `cnt + 1` that does not fit 16 bits,
which no reached state makes, is the model's (log 8). -/
def Obligations.BitWaitEndsTheColumn : Prop :=
  ∀ line s,
    let r := s.regs
    let next : FsmState := if s.params.S = 0 then .bitSample else .bitSettle
    exec (.bitWait line) s = .next { s with regs :=
      if line ≠ r.dat then
        if r.col.toNat ≤ 3 then { r with col := r.col + 1, state := next, cnt := 0, done := false }
        else if r.row.toNat ≤ 9 then
          if r.rowpar = true ∨ r.tof = true then
            { r with state := .idle, cnt := 0, result := .rowParityError, done := true }
          else { r with row := r.row + 1, col := 0, rowpar := false, state := next, cnt := 0, done := false }
        else if r.tof = true then { r with state := .idle, cnt := 0, result := .timeout, done := true }
        else if (∃ c : Fin 4, r.colpar[c.val] = true) then
          { r with state := .idle, cnt := 0, result := .columnParityError, done := true }
        else { r with state := .idle, cnt := 0, result := .ok, done := true }
      else if r.cnt.toNat + 1 = s.params.T then
        { r with
          tof := true, state := .idle, cnt := 0
          result := if r.row.toNat ≤ 9 then .rowParityError else .timeout, done := true }
      else { r with cnt := r.cnt + 1, done := false } }

/-- R176: when the wait of a column 0 to 3 ends with an edge, the column advances and the next settle begins. -/
def Obligations.ColumnAdvancesOnItsEdge : Prop :=
  ∀ line s, line ≠ s.regs.dat → s.regs.col.toNat ≤ 3 →
    exec (.bitWait line) s = .next { s with regs :=
      { s.regs with
        col := s.regs.col + 1, state := if s.params.S = 0 then .bitSample else .bitSettle, cnt := 0, done := false } }

/-- spec/44_parity_check.md section 1: the two micro-operations by themselves, what R200 and R201 make of the registers.
The model's choices: executed alone they clear `done` and do not write `tof` (DEDUCED, log 2), and in rows 10 to 15, where
BIT_WAIT never runs it, the row-end check keeps the low bits of `row + 1` (DESIGN CHOICE, log 8). -/
def Obligations.MicroOperationsCheckTheRow : Prop :=
  ∀ timedOut s,
    exec (.bitWaitRowEnd timedOut) s = .next { s with regs :=
      if s.regs.rowpar = true ∨ s.regs.tof = true ∨ timedOut = true then
        { s.regs with state := .idle, cnt := 0, result := .rowParityError, done := true }
      else
        { s.regs with
          row := s.regs.row + 1, col := 0, rowpar := false
          state := if s.params.S = 0 then .bitSample else .bitSettle, cnt := 0, done := false } } ∧
    exec (.bitWaitFinalCheck timedOut) s = .next { s with regs :=
      { s.regs with
        state := .idle, cnt := 0, done := true
        result :=
          if s.regs.tof = true ∨ timedOut = true then .timeout
          else if (∃ c : Fin 4, s.regs.colpar[c.val] = true) then .columnParityError
          else .ok } }

/-- spec/43_matrix_sampler.md section 1 (R175, R177): an edge of column 4 and a timeout of any column run the row-end
check in rows 0 to 9 and the final check after them, in the same edge and with the timeout flag raised there. -/
def Obligations.BitWaitCallsItsMicroOperations : Prop :=
  ∀ line timedOut s,
    timedOut = false ∧ line ≠ s.regs.dat ∧ 4 ≤ s.regs.col.toNat ∨
      timedOut = true ∧ line = s.regs.dat ∧ s.regs.cnt.toNat + 1 = s.params.T →
    let s' : State := { s with regs := { s.regs with tof := s.regs.tof || timedOut } }
    (s.regs.row.toNat ≤ 9 → exec (.bitWait line) s = exec (.bitWaitRowEnd timedOut) s') ∧
    (10 ≤ s.regs.row.toNat → exec (.bitWait line) s = exec (.bitWaitFinalCheck timedOut) s')

/-- R203: in row 10 `rowpar` is computed, but the step and the final check read it for nothing but `rowpar` itself,
and an odd row 10 is accepted when columns 0 to 3 are even and no timeout occurred. -/
def Obligations.Row10ParityIsNotChecked : Prop :=
  (∀ line s t, s.regs.row = 10 → exec (.bitSample line) s = .next t → t.regs.rowpar = (s.regs.rowpar ^^ line)) ∧
  (∀ (s t : State) b, s.regs.row = 10 → step s = .next t → ∃ b',
    step { s with regs := { s.regs with rowpar := b } } = .next { t with regs := { t.regs with rowpar := b' } }) ∧
  (∀ timedOut b s t, exec (.bitWaitFinalCheck timedOut) s = .next t →
    exec (.bitWaitFinalCheck timedOut) { s with regs := { s.regs with rowpar := b } } =
      .next { t with regs := { t.regs with rowpar := b } }) ∧
  (∀ line s, s.regs.row = 10 → s.regs.col = 4 → line ≠ s.regs.dat → s.regs.tof = false →
    (∀ c : Fin 4, s.regs.colpar[c.val] = false) →
    exec (.bitWait line) s = .next { s with regs :=
      { s.regs with state := .idle, cnt := 0, result := .ok, done := true } })

/-- spec/44_parity_check.md section 2 (R205): no step reads `colpar[4]` for anything but `colpar[4]` itself, BIT_WAIT
only carries it along, and the value sampled at (10, 4) reaches only `dat`, `rowpar` and `colpar[4]`. -/
def Obligations.Column4ParityDecidesNothing : Prop :=
  (∀ (s t : State) b, step s = .next t → ∃ b',
    step { s with regs := { s.regs with colpar := s.regs.colpar.set 4 b } } =
      .next { t with regs := { t.regs with colpar := t.regs.colpar.set 4 b' } }) ∧
  (∀ line b s t, exec (.bitWait line) s = .next t →
    exec (.bitWait line) { s with regs := { s.regs with colpar := s.regs.colpar.set 4 b } } =
      .next { t with regs := { t.regs with colpar := t.regs.colpar.set 4 b } }) ∧
  (∀ s t u, s.regs.row = 10 → s.regs.col = 4 → exec (.bitSample false) s = .next t →
    exec (.bitSample true) s = .next u →
    u = { t with regs :=
      { t.regs with
        dat := u.regs.dat, rowpar := u.regs.rowpar, colpar := t.regs.colpar.set 4 u.regs.colpar[4] } })

/-! ## Decoding and encoding -/

/-- R86: how one edge is decoded, with the state codes of R78 and R79. -/
def Obligations.EdgeIsDecodedInPriorityOrder : Prop :=
  (∀ start line code, decodeEdge (InputWord.ofBits true start line) code = .reset start line) ∧
  (∀ line, decodeEdge (InputWord.ofBits false true line) 0 = .start line) ∧
  (∀ start line code, ¬ (code = 0 ∧ start = true) → decodeEdge (InputWord.ofBits false start line) code =
    match code.toNat with
    | 0 => .idle line
    | 1 => .idleWait line
    | 2 => .syncSettle line
    | 3 => .syncCheck line
    | 4 => .hdrWait line
    | 5 => .hdrSettle line
    | 6 => .hdrCheck line
    | 7 => .bitSettle line
    | 8 => .bitSample line
    | 9 => .bitWait line
    | 10 => .illegal10to11 code line
    | 11 => .illegal10to11 code line
    | _ => .illegal12to15 code line) ∧
  (∀ code line s, 10 ≤ code.toNat → exec (decodeEdge (InputWord.ofBits false false line) code) s =
    .next { s with regs := { s.regs with state := .idle, cnt := 0, result := .none, done := true } })

/-- spec/30_encoding.md sections 1 and 6: R74's decoding of the input word alone and R86's decoding of word and state
name instructions with the same effect in every state. -/
def Obligations.WordAndPairDecodingAgree : Prop :=
  ∀ w s, exec (decodeInput w) s = exec (decodeEdge w s.regs.state.code) s

/-- spec/30_encoding.md sections 1, 3 and 6: decoding an encoded well-formed instruction gives it back with every
operand, BIT_WAIT's micro-operations sharing its code, and distinct instructions have distinct words. -/
def Obligations.DecodeOfEncodeIsTheInstruction : Prop :=
  (∀ i : Instr, i.wf = true → i.hasOwnWord = true → decode (encode i) = i) ∧
  (∀ i : Instr, i.hasOwnWord = false → decode (encode i) = .bitWait false) ∧
  (∀ i j : Instr, i.wf = true → j.wf = true → i.hasOwnWord = true → j.hasOwnWord = true →
    encode i = encode j → i = j) ∧
  (∀ f : Form, (decode f).wf = true ∧ (decode f).hasOwnWord = true)

/-- The model's byte layout of R86's pair (DESIGN CHOICE, log 7): the byte gives back word and code and is used up, and
a byte with bit 7 set and an empty sequence are refused by name. -/
def Obligations.PairBytesDecode : Prop :=
  (∀ w code rest, decodeBytes (pairByte w code :: rest) = .ok (decodeEdge w code, rest)) ∧
  (∀ b rest, b.getLsbD 7 = true → decodeBytes (b :: rest) = .error .bitSevenSet) ∧
  decodeBytes [] = .error .noByte

/-- spec/30_encoding.md sections 1 and 3: words written out from the encodings, one of each family. -/
def Obligations.SpecWordsDecode : Prop :=
  decodeInput 0b100 = .reset false false ∧ decodeInput 0b011 = .start true ∧ decodeInput 0b001 = .tick true ∧
  decodeEdge 0b001 0b0001 = .idleWait true ∧ decodeEdge 0b001 0b0110 = .hdrCheck true ∧
  decodeEdge 0b011 0b1000 = .bitSample true ∧ decodeEdge 0b000 0b1001 = .bitWait false ∧
  decodeEdge 0b001 0b1011 = .illegal10to11 0b1011 true ∧ decodeEdge 0b010 0b1100 = .illegal12to15 0b1100 false

/-- The model's placing of a table word (DESIGN CHOICE, log 7), of each width that has words: the very next edge has the
effect of the instruction the word decodes to, with one listed word used up; and of 4 and 8 bits, where the word gives the
state code too, the edge decodes to that very instruction. -/
def Obligations.TableWordIsTheNextInstruction : Prop :=
  ∀ (s : State) (nbits w : Nat) (i : Instr), decodeTableWord nbits w = some i →
    step (s.withFetchWord nbits w) =
        exec i { s.withFetchWord nbits w with inputs := s.inputs.tail, edge := s.edge + 1 } ∧
      (nbits ≠ 3 → (s.withFetchWord nbits w).fetch = i)

/-- spec/30_encoding.md section 4: the 3-bit result codes, all eight in use. -/
def Obligations.ResultCodesAreNumbered : Prop :=
  [ResultCode.none, .ok, .noCarrier, .framingError, .headerTimeout, .rowParityError, .columnParityError,
    .timeout].map ResultCode.code = [0, 1, 2, 3, 4, 5, 6, 7] ∧
  (∀ a b : ResultCode, a.code = b.code → a = b) ∧ ∀ v, ∃ a : ResultCode, a.code = v

/-! ## The step -/

/-- spec/40_control.md section 1: a step runs the instruction that its input word and its state code decode to. Where the
word comes from is the model's choice (DESIGN CHOICE, log 4): the head of `inputs`, which the step uses up, or the free
word `Config.envWord` of the edge's number where none is listed; `edge` counts the step. -/
def Obligations.StepRunsTheDecodedInstruction : Prop :=
  (∀ s w rest, s.inputs = w :: rest →
    step s = exec (decodeEdge w s.regs.state.code) { s with inputs := rest, edge := s.edge + 1 }) ∧
  (∀ s, s.inputs = [] →
    step s = exec (decodeEdge (Config.envWord s.edge) s.regs.state.code) { s with edge := s.edge + 1 })

/-- spec/60_exceptions.md section 1: failures are completions, not traps; every edge takes a next state. -/
def Obligations.EveryEdgeCompletes : Prop := ∀ s : State, s.safeEdge

/-- spec/10_state.md section 3 and spec/40_control.md section 4: no edge changes T or S (R36, R112). That each edge uses up
one listed word and counts itself in `edge` is the model's choice (DESIGN CHOICE, log 4): both fields are its own. -/
def Obligations.ParametersNeverChange : Prop :=
  ∀ s t : State, step s = .next t →
    t.params = s.params ∧ t.inputs = s.inputs.tail ∧ t.edge = s.edge + 1

/-- spec/40_control.md section 1: the next registers are a function of the registers, the input word and T and S. -/
def Obligations.NextRegistersDependOnNothingElse : Prop :=
  ∀ s s' t t' : State, s.regs = s'.regs → s.params = s'.params → s.inputWord = s'.inputWord →
    step s = .next t → step s' = .next t' → t.regs = t'.regs

/-- R101: at an edge without reset `done` becomes 1 exactly when the edge completes a decode, that is, takes the block
from a busy state back to IDLE, and 0 otherwise. -/
def Obligations.DoneIsAOneCyclePulse : Prop :=
  ∀ s t : State, step s = .next t → s.inputWord.rst = false →
    (t.regs.done = true ↔ s.regs.state ≠ .idle ∧ t.regs.state = .idle)

/-- spec/40_control.md section 4: while busy `start` is ignored and not remembered, and no busy edge without `rst` begins
a decode. -/
def Obligations.StartIsIgnoredWhileBusy : Prop :=
  (∀ (s : State) line rest, s.regs.state ≠ .idle →
    step { s with inputs := InputWord.ofBits false true line :: rest } =
      step { s with inputs := InputWord.ofBits false false line :: rest }) ∧
  (∀ s t : State, s.regs.state ≠ .idle → s.inputWord.rst = false → step s = .next t →
    t.regs.state = .idleWait → s.regs.state = .idleWait)

/-- spec/70_reset_and_hazards.md section 2: the edge right after a completion is processed in IDLE, so a `start` that
is high there begins the next decode and one that is low there does not. -/
def Obligations.CompletionIsFollowedByTheNextStart : Prop :=
  ∀ s t u : State, s.regs.state ≠ .idle → s.inputWord.rst = false → step s = .next t → t.regs.state = .idle →
    t.inputWord.rst = false → step t = .next u →
    if t.inputWord.start = true then u.regs.state = .idleWait ∧ u.regs.result = .none ∧ u.regs.idOut = 0
    else u.regs = { t.regs with done := false }

/-- R125: the line is not observed at a settle tick, at the START edge or in IDLE, and matters at every other edge. -/
def Obligations.LineIsIgnoredWhereTheSpecSays : Prop :=
  (∀ a b s, exec (.syncSettle a) s = exec (.syncSettle b) s ∧ exec (.hdrSettle a) s = exec (.hdrSettle b) s ∧
    exec (.bitSettle a) s = exec (.bitSettle b) s ∧ exec (.idle a) s = exec (.idle b) s) ∧
  (∀ a b s, s.regs.state = .idle → exec (.start a) s = exec (.start b) s) ∧
  (∀ s : State, s.regs.tof = false →
    s.regs.state ∈ [FsmState.idleWait, .syncCheck, .hdrWait, .hdrCheck, .bitSample, .bitWait] →
    exec (.tick false) s ≠ exec (.tick true) s)

/-- spec/60_exceptions.md section 3: reset over everything, edge over timeout, RowParityError for both causes,
Timeout over ColumnParityError, completion over START. -/
def Obligations.PrioritiesAtOneEdge : Prop :=
  (∀ s : State, s.inputWord.rst = true → step s = .next (s.passEdge.setRegs Regs.reset)) ∧
  (∀ s t, s.regs.cnt.toNat + 1 = s.params.T →
    (exec (.idleWait false) s = .next t → t.regs.state ≠ .idle) ∧
    (exec (.hdrWait false) s = .next t → t.regs.state ≠ .idle) ∧
    (exec (.bitWait (!s.regs.dat)) s = .next t → t.regs.tof = s.regs.tof)) ∧
  (∀ s t, s.regs.rowpar = true → exec (.bitWaitRowEnd true) s = .next t → t.regs.result = .rowParityError) ∧
  (∀ s t, (∃ c : Fin 4, s.regs.colpar[c.val] = true) → exec (.bitWaitFinalCheck true) s = .next t →
    t.regs.result = .timeout) ∧
  (∀ s t : State, s.regs.state ≠ .idle → s.inputWord.rst = false → s.inputWord.start = true → step s = .next t →
    t.regs.done = true → t.regs.state = .idle)

/-- spec/60_exceptions.md section 1: which state raises which result, and exactly when. -/
def Obligations.EveryResultHasItsCause : Prop :=
  ∀ s t : State, s.Inv → s.regs.state ≠ .idle → s.inputWord.rst = false → step s = .next t → t.regs.state = .idle →
    let line := s.inputWord.line
    let timeout := line = s.regs.dat ∧ s.regs.cnt.toNat + 1 = s.params.T
    let edge := line ≠ s.regs.dat
    (s.regs.state = .idleWait ∧ line = true ∧ s.regs.cnt.toNat + 1 = s.params.T ∧ t.regs.result = .noCarrier) ∨
    (s.regs.state = .syncCheck ∧ line = false ∧ t.regs.result = .framingError) ∨
    (s.regs.state = .hdrCheck ∧ line = false ∧ t.regs.result = .framingError ∧ t.regs.hdr = s.regs.hdr) ∨
    (s.regs.state = .hdrWait ∧ line = true ∧ s.regs.cnt.toNat + 1 = s.params.T ∧ t.regs.result = .headerTimeout) ∨
    (s.regs.state = .bitWait ∧ s.regs.row.toNat ≤ 9 ∧ timeout ∧ t.regs.result = .rowParityError) ∨
    (s.regs.state = .bitWait ∧ s.regs.row.toNat ≤ 9 ∧ s.regs.col = 4 ∧ edge ∧ s.regs.rowpar = true ∧
      t.regs.result = .rowParityError) ∨
    (s.regs.state = .bitWait ∧ s.regs.row = 10 ∧ timeout ∧ t.regs.result = .timeout) ∨
    (s.regs.state = .bitWait ∧ s.regs.row = 10 ∧ s.regs.col = 4 ∧ edge ∧
      (∃ c : Fin 4, s.regs.colpar[c.val] = true) ∧ t.regs.result = .columnParityError) ∨
    (s.regs.state = .bitWait ∧ s.regs.row = 10 ∧ s.regs.col = 4 ∧ edge ∧
      (∀ c : Fin 4, s.regs.colpar[c.val] = false) ∧ t.regs.result = .ok)

/-- spec/10_state.md section 1 (R21): every transition into another state sets `cnt` to 0. -/
def Obligations.EveryTransitionClearsTheCounter : Prop :=
  ∀ s t : State, step s = .next t → t.regs.state ≠ s.regs.state → t.regs.cnt = 0

/-- spec/20_memory.md section 1: without reset only an accepted START and BIT_SAMPLE change the identifier buffer, and
BIT_SAMPLE changes at most the one byte of its row. -/
def Obligations.IdentifierBufferWriters : Prop :=
  ∀ s t : State, step s = .next t → s.inputWord.rst = false → ∀ j : Fin 5, t.regs.idbuf[j] ≠ s.regs.idbuf[j] →
    s.regs.state = .idle ∧ s.inputWord.start = true ∧ t.regs.idbuf[j] = 0 ∨
    s.regs.state = .bitSample ∧ s.regs.row.toNat ≤ 9 ∧ s.regs.col.toNat ≤ 3 ∧ j.val = s.regs.row.toNat / 2

/-! ## Timing of waits and settles -/

/-- spec/41_bit_timing.md section 1: fewer than T polls at the waited level only count, in each of the three waits. -/
def Obligations.WaitsCountTheirPolls : Prop :=
  ∀ (s : State) (p : Nat), s.regs.state.isWait = true → s.regs.cnt = 0 → 1 ≤ p → p < s.params.T → s.noReset p →
    (∀ i < p, (s.wordAt i).line = if s.regs.state = .bitWait then s.regs.dat else true) →
    s.runEdges p = .next ((s.afterEdges p).setRegs { s.regs with cnt := BitVec.ofNat 16 p, done := false })

/-- spec/42_carrier_and_header.md section 1: from the START edge t0, T high polls end the decode with NoCarrier at
edge t0 + T, and a low at any poll up to the T-th passes. -/
def Obligations.CarrierWaitEndsAtItsPoll : Prop :=
  ∀ (s : State) (p : Nat), s.regs.state = .idle → (s.wordAt 0).start = true → s.noReset (p + 1) → 1 ≤ p →
    p ≤ s.params.T → (∀ i < p - 1, (s.wordAt (i + 1)).line = true) →
    ((s.wordAt p).line = false → ∃ t, s.runEdges (p + 1) = .next t ∧ t.regs.cnt = 0 ∧ t.regs.done = false ∧
      t.regs.state = if s.params.S = 0 then .syncCheck else .syncSettle) ∧
    ((s.wordAt p).line = true → p = s.params.T → ∃ t, s.runEdges (p + 1) = .next t ∧ t.regs.state = .idle ∧
      t.regs.done = true ∧ t.regs.result = .noCarrier)

/-- spec/41_bit_timing.md section 2: a settle state lasts exactly S edges, whatever the line and `start` do. -/
def Obligations.SettleLastsExactlyS : Prop :=
  ∀ (s : State) (x : SettleTarget), s.regs.state = x.settleState → s.regs.cnt = 0 → 1 ≤ s.params.S →
    s.noReset s.params.S →
    (∀ k, 1 ≤ k → k < s.params.S → s.runEdges k =
      .next ((s.afterEdges k).setRegs { s.regs with cnt := BitVec.ofNat 16 k, done := false })) ∧
    s.runEdges s.params.S =
      .next ((s.afterEdges s.params.S).setRegs { s.regs with state := x.state, cnt := 0, done := false })

/-- spec/42_carrier_and_header.md section 4 (R148): a carrier wait or a header round whose wait sees its edge at poll v
takes v + S + 1 edges, whatever the line does in the settle delay, and does to the registers what its check alone does. -/
def Obligations.CheckedRoundTakesItsSegment : Prop :=
  ∀ (s : State) (b : Bool) (v : Nat), s.regs.state = .idleWait ∨ s.regs.state = .hdrWait → s.regs.cnt = 0 → 1 ≤ v →
    v ≤ s.params.T → s.noReset (v + s.params.S + 1) → (∀ i < v - 1, (s.wordAt i).line = true) →
    (s.wordAt (v - 1)).line = false → (s.wordAt (v + s.params.S)).line = b →
    let check : Instr := if s.regs.state = .idleWait then .syncCheck b else .hdrCheck b
    ∃ t, exec check s = .next t ∧
      s.runEdges (v + s.params.S + 1) = .next ((s.afterEdges (v + s.params.S + 1)).setRegs t.regs)

/-- spec/43_matrix_sampler.md section 3 (R179): a data bit whose wait sees its edge at poll v takes S + 1 + v edges,
whatever the line does in the settle delay, and does to the registers what its sample and that one poll do. -/
def Obligations.DataBitTakesItsSegment : Prop :=
  ∀ (s : State) (b : Bool) (v : Nat), s.regs.state = (if s.params.S = 0 then .bitSample else .bitSettle) →
    s.regs.cnt = 0 → 1 ≤ v → v ≤ s.params.T → s.noReset (s.params.S + 1 + v) →
    (∀ i < v, (s.wordAt (s.params.S + i)).line = b) → (s.wordAt (s.params.S + v)).line = !b →
    ∃ t u, exec (.bitSample b) s = .next t ∧ exec (.bitWait (!b)) t = .next u ∧
      s.runEdges (s.params.S + 1 + v) = .next ((s.afterEdges (s.params.S + 1 + v)).setRegs u.regs)

/-! ## Invariants -/

/-- spec/10_state.md section 4 (R38 items 1 to 5, with `hdr = 0` in the carrier states): every edge keeps them, from
every state that has them. -/
def Obligations.StepKeepsTheInvariant : Prop :=
  ∀ s t : State, s.Inv → step s = .next t → t.Inv

/-- spec/10_state.md section 4 (R38 items 6 and 7): every edge keeps what the registers owe to the sampled bits. -/
def Obligations.StepKeepsTheCapturedBits : Prop :=
  ∀ (s t : State) (bits : List Bool), s.Inv → s.regs.Captured bits → step s = .next t →
    t.regs.Captured (s.bitsAfter bits)

/-- The reset state has both invariants, with no bit sampled. -/
def Obligations.ResetMeetsTheInvariants : Prop :=
  State.reset.Inv ∧ State.reset.regs.Captured []

/-- R38: what every state reachable from reset satisfies, under any sequence of inputs and any legal T and S. -/
def Obligations.ReachedStatesMeetEveryItem : Prop :=
  ∀ s bits, Reached s bits →
    let r := s.regs
    r.state.code.toNat ≤ 9 ∧
    (r.state.isWait = true → r.cnt.toNat ≤ s.params.T - 1) ∧
    (r.state.isSettle = true → 1 ≤ s.params.S ∧ r.cnt.toNat ≤ s.params.S - 1) ∧
    (r.state ∈ [FsmState.idle, .syncCheck, .hdrCheck, .bitSample] → r.cnt = 0) ∧
    r.hdr.toNat ≤ 8 ∧ (r.state.isHeader = true → r.hdr.toNat ≤ 7) ∧ (r.state.isBit = true → r.hdr.toNat = 8) ∧
    r.row.toNat ≤ 10 ∧ r.col.toNat ≤ 4 ∧
    (r.state.isCarrier = true ∨ r.state.isHeader = true → r.row = 0 ∧ r.col = 0) ∧
    (r.state ≠ .idle → r.result = .none ∧ r.done = false ∧ r.tof = false) ∧
    (r.state.isBit = true → r.rowpar = rowSum bits r.row.toNat ∧ ∀ c : Fin 5, r.colpar[c] = colSum bits c) ∧
    (∀ j : Fin 5, r.idbuf[j] = byteOf bits j)

/-! ## The identifier -/

/-- spec/44_parity_check.md section 2 (R204): a decode ends with OK only after 55 bits whose rows 0 to 9 and columns 0
to 3 are even, with those data bits on `id_out`; and such a frame's last edge ends with OK. -/
def Obligations.OkMeansAParityCleanFrame : Prop :=
  (∀ (s t : State) (bits : List Bool), s.Inv → s.regs.Captured bits → s.regs.state ≠ .idle → step s = .next t →
    t.regs.result = .ok →
    s.regs.state = .bitWait ∧ bits.length = 55 ∧ (∀ r < 10, rowSum bits r = false) ∧
      (∀ c < 4, colSum bits c = false) ∧
      ∀ r < 10, ∀ c < 4, t.regs.idOut.getLsbD (39 - (4 * r + c)) = bitAt bits r c) ∧
  (∀ (s : State) (bits : List Bool), s.Inv → s.regs.Captured bits → s.regs.state = .bitWait → bits.length = 55 →
    (∀ c < 4, colSum bits c = false) → s.inputWord.rst = false → s.inputWord.line ≠ s.regs.dat →
    step s = .next (s.passEdge.setRegs { s.regs with state := .idle, cnt := 0, result := .ok, done := true }))

/-- R53: how the identifier is packed, and where each data bit of a whole frame lands. -/
def Obligations.FrameBitsLandInTheIdentifier : Prop :=
  (∀ (r : Regs) (j : Fin 5), r.identifier.extractLsb' (32 - 8 * j.val) 8 = r.idbuf[j]) ∧
  (∀ r : Regs, r.result = .ok → r.idOut = r.identifier) ∧
  (∀ (r : Regs) (bits : List Bool), r.Captured bits → bits.length = 55 → ∀ row < 10, ∀ col < 4,
    r.identifier.getLsbD (39 - (4 * row + col)) = bitAt bits row col)

/-- R180: at the edge that performs the final check after 55 waits ended by edges, byte j of the buffer holds exactly
the data bits of rows 2j and 2j+1, row 2j in the high nibble and column 0 first, whatever it held before. -/
def Obligations.FullFrameFillsTheBuffer : Prop :=
  ∀ (s t : State) (bits : List Bool), s.regs.Captured bits → s.regs.state = .bitWait → s.regs.row = 10 →
    s.regs.col = 4 → s.inputWord.rst = false → s.inputWord.line ≠ s.regs.dat → step s = .next t →
    bits.length = 55 ∧
      ∀ (j : Fin 5) (k : Nat), k < 8 → t.regs.idbuf[j].getLsbD (7 - k) = bitAt bits (2 * j.val + k / 4) (k % 4)

/-- spec/44_parity_check.md section 2 (R206, R207): flipping one bit makes its row and its column change parity and no
other; so one flip in a data row is seen by the row check, and four at the corners of a rectangle by none. -/
def Obligations.OneFlippedBitChangesItsRowAndColumn : Prop :=
  ∀ (bits : List Bool) (n : Nat), n < 55 → bits.length = 55 →
    let flipped := bits.set n (!bits.getD n false)
    (∀ r < 11, rowSum flipped r = (rowSum bits r ^^ decide (r = n / 5))) ∧
    (∀ c < 5, colSum flipped c = (colSum bits c ^^ decide (c = n % 5)))

/-- R85: the frame matrix of an identifier, and that its rows 0 to 9 and columns 0 to 3 are even. -/
def Obligations.FrameMatrixIsParityClean : Prop :=
  ∀ x : Identifier,
    (∀ r < 10, ∀ c < 4, frameBit x r c = x.getLsbD (39 - (4 * r + c))) ∧
    (∀ r < 10, frameBit x r 4 = (frameBit x r 0 ^^ frameBit x r 1 ^^ frameBit x r 2 ^^ frameBit x r 3)) ∧
    frameBit x 10 4 = false ∧
    (∀ r < 10, rowSum (frameRows x).flatten r = false) ∧
    (∀ c < 4, colSum (frameRows x).flatten c = false) ∧
    (∀ r < 11, ∀ c < 5, bitAt (frameRows x).flatten r c = frameBit x r c) ∧
    (frameRows x).flatten.length = 55

/-! ## Latency -/

/-- spec/70_reset_and_hazards.md section 5: an accepted START leaves 64·(T + S + 1) edges, and every edge of a decode
uses up at least one of those left or ends the decode. -/
def Obligations.EveryBusyEdgeUsesUpLatency : Prop :=
  (∀ s t : State, s.regs.state = .idle → s.inputWord.rst = false → s.inputWord.start = true → step s = .next t →
    t.edgesLeft = 64 * (s.params.T + s.params.S + 1)) ∧
  (∀ s t : State, s.Inv → s.regs.state ≠ .idle → s.inputWord.rst = false → step s = .next t →
    t.edgesLeft < s.edgesLeft ∧ (t.regs.state = .idle → t.regs.done = true ∧ t.regs.result ≠ .none))

/-- spec/70_reset_and_hazards.md section 5: whatever the line does, a decode started at edge t0 and not reset ends
within 64·(T + S + 1) edges of t0 with a result, and the block is busy at every edge before. -/
def Obligations.EveryDecodeEndsInTime : Prop :=
  ∀ s : State, s.Inv → s.regs.state = .idle → s.inputWord.start = true →
    s.noReset (64 * (s.params.T + s.params.S + 1) + 1) →
    ∃ k, 1 ≤ k ∧ k ≤ 64 * (s.params.T + s.params.S + 1) ∧
      (∃ t, s.runEdges (k + 1) = .next t ∧ t.regs.state = .idle ∧ t.regs.done = true ∧ t.regs.result ≠ .none) ∧
      ∀ j, 1 ≤ j → j ≤ k → ∃ t, s.runEdges j = .next t ∧ t.regs.busy = true ∧ t.regs.done = false
end

