-- ==== Sys2Proof/Laws/State.lean ====
section
/-! SUPPORT. What each update of the state does to each field, one lemma a field, so that no proof unfolds an update. -/

namespace Sys2Proof.Machine

/-! ## Whole-state updates -/

@[simp] theorem setRegs_regs (s : State) (r : Regs) : (s.setRegs r).regs = r := rfl
@[simp] theorem setRegs_params (s : State) (r : Regs) : (s.setRegs r).params = s.params := rfl
@[simp] theorem setRegs_inputs (s : State) (r : Regs) : (s.setRegs r).inputs = s.inputs := rfl
@[simp] theorem setRegs_edge (s : State) (r : Regs) : (s.setRegs r).edge = s.edge := rfl

@[simp] theorem tickWith_regs (s : State) (op : Regs → Regs) : (s.tickWith op).regs = op (clearDone s.regs) := rfl
@[simp] theorem tickWith_params (s : State) (op : Regs → Regs) : (s.tickWith op).params = s.params := rfl
@[simp] theorem tickWith_inputs (s : State) (op : Regs → Regs) : (s.tickWith op).inputs = s.inputs := rfl
@[simp] theorem tickWith_edge (s : State) (op : Regs → Regs) : (s.tickWith op).edge = s.edge := rfl

@[simp] theorem passEdge_regs (s : State) : s.passEdge.regs = s.regs := rfl
@[simp] theorem passEdge_params (s : State) : s.passEdge.params = s.params := rfl
@[simp] theorem passEdge_inputs (s : State) : s.passEdge.inputs = s.inputs.tail := rfl
@[simp] theorem passEdge_edge (s : State) : s.passEdge.edge = s.edge + 1 := rfl

@[simp] theorem afterEdges_regs (s : State) (k : Nat) : (s.afterEdges k).regs = s.regs := rfl
@[simp] theorem afterEdges_params (s : State) (k : Nat) : (s.afterEdges k).params = s.params := rfl
@[simp] theorem afterEdges_inputs (s : State) (k : Nat) : (s.afterEdges k).inputs = s.inputs.drop k := rfl
@[simp] theorem afterEdges_edge (s : State) (k : Nat) : (s.afterEdges k).edge = s.edge + k := rfl

@[simp] theorem present_regs (s : State) (w : InputWord) : (s.present w).regs = s.regs := rfl
@[simp] theorem present_params (s : State) (w : InputWord) : (s.present w).params = s.params := rfl
@[simp] theorem present_inputs (s : State) (w : InputWord) : (s.present w).inputs = w :: s.inputs.tail := rfl
@[simp] theorem present_edge (s : State) (w : InputWord) : (s.present w).edge = s.edge := rfl

/-! ## `clearDone` -/

@[simp] theorem clearDone_state (r : Regs) : (clearDone r).state = r.state := rfl
@[simp] theorem clearDone_cnt (r : Regs) : (clearDone r).cnt = r.cnt := rfl
@[simp] theorem clearDone_hdr (r : Regs) : (clearDone r).hdr = r.hdr := rfl
@[simp] theorem clearDone_row (r : Regs) : (clearDone r).row = r.row := rfl
@[simp] theorem clearDone_col (r : Regs) : (clearDone r).col = r.col := rfl
@[simp] theorem clearDone_dat (r : Regs) : (clearDone r).dat = r.dat := rfl
@[simp] theorem clearDone_rowpar (r : Regs) : (clearDone r).rowpar = r.rowpar := rfl
@[simp] theorem clearDone_colpar (r : Regs) : (clearDone r).colpar = r.colpar := rfl
@[simp] theorem clearDone_tof (r : Regs) : (clearDone r).tof = r.tof := rfl
@[simp] theorem clearDone_idbuf (r : Regs) : (clearDone r).idbuf = r.idbuf := rfl
@[simp] theorem clearDone_result (r : Regs) : (clearDone r).result = r.result := rfl
@[simp] theorem clearDone_done (r : Regs) : (clearDone r).done = false := rfl

/-! ## `finish` -/

@[simp] theorem finish_state (code : ResultCode) (r : Regs) : (finish code r).state = .idle := rfl
@[simp] theorem finish_cnt (code : ResultCode) (r : Regs) : (finish code r).cnt = 0 := rfl
@[simp] theorem finish_hdr (code : ResultCode) (r : Regs) : (finish code r).hdr = r.hdr := rfl
@[simp] theorem finish_row (code : ResultCode) (r : Regs) : (finish code r).row = r.row := rfl
@[simp] theorem finish_col (code : ResultCode) (r : Regs) : (finish code r).col = r.col := rfl
@[simp] theorem finish_dat (code : ResultCode) (r : Regs) : (finish code r).dat = r.dat := rfl
@[simp] theorem finish_rowpar (code : ResultCode) (r : Regs) : (finish code r).rowpar = r.rowpar := rfl
@[simp] theorem finish_colpar (code : ResultCode) (r : Regs) : (finish code r).colpar = r.colpar := rfl
@[simp] theorem finish_tof (code : ResultCode) (r : Regs) : (finish code r).tof = r.tof := rfl
@[simp] theorem finish_idbuf (code : ResultCode) (r : Regs) : (finish code r).idbuf = r.idbuf := rfl
@[simp] theorem finish_result (code : ResultCode) (r : Regs) : (finish code r).result = code := rfl
@[simp] theorem finish_done (code : ResultCode) (r : Regs) : (finish code r).done = true := rfl

/-! ## `enter` -/

@[simp] theorem enter_state (f : FsmState) (r : Regs) : (enter f r).state = f := rfl
@[simp] theorem enter_cnt (f : FsmState) (r : Regs) : (enter f r).cnt = 0 := rfl
@[simp] theorem enter_hdr (f : FsmState) (r : Regs) : (enter f r).hdr = r.hdr := rfl
@[simp] theorem enter_row (f : FsmState) (r : Regs) : (enter f r).row = r.row := rfl
@[simp] theorem enter_col (f : FsmState) (r : Regs) : (enter f r).col = r.col := rfl
@[simp] theorem enter_dat (f : FsmState) (r : Regs) : (enter f r).dat = r.dat := rfl
@[simp] theorem enter_rowpar (f : FsmState) (r : Regs) : (enter f r).rowpar = r.rowpar := rfl
@[simp] theorem enter_colpar (f : FsmState) (r : Regs) : (enter f r).colpar = r.colpar := rfl
@[simp] theorem enter_tof (f : FsmState) (r : Regs) : (enter f r).tof = r.tof := rfl
@[simp] theorem enter_idbuf (f : FsmState) (r : Regs) : (enter f r).idbuf = r.idbuf := rfl
@[simp] theorem enter_result (f : FsmState) (r : Regs) : (enter f r).result = r.result := rfl
@[simp] theorem enter_done (f : FsmState) (r : Regs) : (enter f r).done = r.done := rfl

/-! ## `beginDecode` -/

@[simp] theorem beginDecode_state (r : Regs) : (beginDecode r).state = .idleWait := rfl
@[simp] theorem beginDecode_cnt (r : Regs) : (beginDecode r).cnt = 0 := rfl
@[simp] theorem beginDecode_hdr (r : Regs) : (beginDecode r).hdr = 0 := rfl
@[simp] theorem beginDecode_row (r : Regs) : (beginDecode r).row = 0 := rfl
@[simp] theorem beginDecode_col (r : Regs) : (beginDecode r).col = 0 := rfl
@[simp] theorem beginDecode_dat (r : Regs) : (beginDecode r).dat = false := rfl
@[simp] theorem beginDecode_rowpar (r : Regs) : (beginDecode r).rowpar = false := rfl
@[simp] theorem beginDecode_colpar (r : Regs) : (beginDecode r).colpar = Vector.replicate 5 false := rfl
@[simp] theorem beginDecode_tof (r : Regs) : (beginDecode r).tof = false := rfl
@[simp] theorem beginDecode_idbuf (r : Regs) : (beginDecode r).idbuf = Vector.replicate 5 0 := rfl
@[simp] theorem beginDecode_result (r : Regs) : (beginDecode r).result = .none := rfl
@[simp] theorem beginDecode_done (r : Regs) : (beginDecode r).done = r.done := rfl

/-! ## `Regs.reset` -/

@[simp] theorem reset_state  : (Regs.reset).state = .idle := rfl
@[simp] theorem reset_cnt  : (Regs.reset).cnt = 0 := rfl
@[simp] theorem reset_hdr  : (Regs.reset).hdr = 0 := rfl
@[simp] theorem reset_row  : (Regs.reset).row = 0 := rfl
@[simp] theorem reset_col  : (Regs.reset).col = 0 := rfl
@[simp] theorem reset_dat  : (Regs.reset).dat = false := rfl
@[simp] theorem reset_rowpar  : (Regs.reset).rowpar = false := rfl
@[simp] theorem reset_colpar  : (Regs.reset).colpar = Vector.replicate 5 false := rfl
@[simp] theorem reset_tof  : (Regs.reset).tof = false := rfl
@[simp] theorem reset_idbuf  : (Regs.reset).idbuf = Vector.replicate 5 0 := rfl
@[simp] theorem reset_result  : (Regs.reset).result = .none := rfl
@[simp] theorem reset_done  : (Regs.reset).done = false := rfl

end Sys2Proof.Machine
end

