-- ==== Sys2Proof/Laws/Ops.lean ====
section
/-! SUPPORT. One lemma for each shared operation that says once everything it can do. Proofs cite these and never
unfold an operation. -/

namespace Sys2Proof

/-- The parameters of every build are legal (R7, I13). -/
theorem Params.T_pos (p : Params) : 1 ≤ p.T := Nat.le_add_left 1 p.timeoutPred.val

theorem Params.T_le (p : Params) : p.T ≤ 2 ^ Config.cntW := p.timeoutPred.isLt

theorem Params.S_le (p : Params) : p.S ≤ 2 ^ Config.cntW := Nat.le_of_lt_succ p.settle.isLt

end Sys2Proof

namespace Sys2Proof.Machine

theorem lastPoll_iff (p : Params) (r : Regs) : lastPoll p r = true ↔ r.cnt.toNat + 1 = p.T := by
  simp [lastPoll]

theorem lastSettleTick_iff (p : Params) (r : Regs) : lastSettleTick p r = true ↔ r.cnt.toNat + 1 = p.S := by
  simp [lastSettleTick]

theorem inDataRow_iff (r : Regs) : inDataRow r = true ↔ r.row.toNat ≤ 9 := by
  simp [inDataRow, Config.dataRows, Nat.lt_succ_iff]

theorem inDataCol_iff (r : Regs) : inDataCol r = true ↔ r.col.toNat ≤ 3 := by
  simp [inDataCol, Config.dataCols, Nat.lt_succ_iff]

theorem lastHeaderEdge_iff (r : Regs) : lastHeaderEdge r = true ↔ r.hdr.toNat = 7 := by
  simp [lastHeaderEdge, Config.headerEdges]

theorem rowFails_iff (timedOut : Bool) (r : Regs) :
    rowFails timedOut r = true ↔ r.rowpar = true ∨ r.tof = true ∨ timedOut = true := by
  simp [rowFails, timedOutAfter]

theorem timedOutAfter_iff (timedOut : Bool) (r : Regs) :
    timedOutAfter timedOut r = true ↔ r.tof = true ∨ timedOut = true := by
  simp [timedOutAfter]

theorem someColumnOdd_iff (r : Regs) :
    someColumnOdd r = true ↔
      r.colpar[0] = true ∨ r.colpar[1] = true ∨ r.colpar[2] = true ∨ r.colpar[3] = true := by
  simp [someColumnOdd, or_assoc]

theorem settleThen_cases (p : Params) (x : SettleTarget) (r : Regs) :
    p.S = 0 ∧ settleThen p x r = enter x.state r ∨ 0 < p.S ∧ settleThen p x r = enter x.settleState r := by
  unfold settleThen
  split
  · exact .inl ⟨‹_›, rfl⟩
  · exact .inr ⟨Nat.pos_of_ne_zero ‹_›, rfl⟩

theorem settleStep_cases (p : Params) (x : SettleTarget) (r : Regs) :
    r.cnt.toNat + 1 = p.S ∧ settleStep p x r = enter x.state r ∨
      r.cnt.toNat + 1 ≠ p.S ∧ settleStep p x r = { r with cnt := r.cnt + 1 } := by
  unfold settleStep
  split
  · exact .inl ⟨(lastSettleTick_iff p r).mp ‹_›, rfl⟩
  · exact .inr ⟨mt (lastSettleTick_iff p r).mpr ‹_›, rfl⟩

theorem waitStep_cases (p : Params) (level line : Bool) (onEdge onTimeout : Regs → Regs) (r : Regs) :
    line ≠ level ∧ waitStep p level line onEdge onTimeout r = onEdge r ∨
      line = level ∧ r.cnt.toNat + 1 = p.T ∧ waitStep p level line onEdge onTimeout r = onTimeout r ∨
      line = level ∧ r.cnt.toNat + 1 ≠ p.T ∧
        waitStep p level line onEdge onTimeout r = { r with cnt := r.cnt + 1 } := by
  unfold waitStep
  split
  · exact .inl ⟨‹_›, rfl⟩
  · split
    · exact .inr (.inl ⟨not_not.mp ‹_›, (lastPoll_iff p r).mp ‹_›, rfl⟩)
    · exact .inr (.inr ⟨not_not.mp ‹_›, mt (lastPoll_iff p r).mpr ‹_›, rfl⟩)

theorem rowEnd_cases (p : Params) (timedOut : Bool) (r : Regs) :
    (r.rowpar = true ∨ r.tof = true ∨ timedOut = true) ∧ rowEnd p timedOut r = finish .rowParityError r ∨
      r.rowpar = false ∧ r.tof = false ∧ timedOut = false ∧
        rowEnd p timedOut r = settleThen p .bitSample { r with row := r.row + 1, col := 0, rowpar := false } := by
  unfold rowEnd
  split
  · exact .inl ⟨(rowFails_iff _ _).mp ‹_›, rfl⟩
  · rename_i h
    simp only [rowFails_iff, not_or, Bool.not_eq_true] at h
    exact .inr ⟨h.1, h.2.1, h.2.2, rfl⟩

theorem finalCheck_cases (timedOut : Bool) (r : Regs) :
    (r.tof = true ∨ timedOut = true) ∧ finalCheck timedOut r = finish .timeout r ∨
      r.tof = false ∧ timedOut = false ∧ someColumnOdd r = true ∧
        finalCheck timedOut r = finish .columnParityError r ∨
      r.tof = false ∧ timedOut = false ∧ someColumnOdd r = false ∧ finalCheck timedOut r = finish .ok r := by
  unfold finalCheck
  split
  · exact .inl ⟨(timedOutAfter_iff _ _).mp ‹_›, rfl⟩
  · rename_i h
    simp only [timedOutAfter_iff, not_or, Bool.not_eq_true] at h
    split
    · exact .inr (.inl ⟨h.1, h.2, ‹_›, rfl⟩)
    · exact .inr (.inr ⟨h.1, h.2, by simpa using ‹¬ someColumnOdd r = true›, rfl⟩)

theorem columnEnd_cases (p : Params) (timedOut : Bool) (r : Regs) :
    timedOut = false ∧ r.col.toNat ≤ 3 ∧
        columnEnd p timedOut r = settleThen p .bitSample { r with col := r.col + 1 } ∨
      (timedOut = true ∨ 4 ≤ r.col.toNat) ∧ r.row.toNat ≤ 9 ∧ columnEnd p timedOut r = rowEnd p timedOut r ∨
      (timedOut = true ∨ 4 ≤ r.col.toNat) ∧ 10 ≤ r.row.toNat ∧
        columnEnd p timedOut r = finalCheck timedOut r := by
  unfold columnEnd
  split
  · rename_i h
    simp only [Bool.and_eq_true, Bool.not_eq_true', inDataCol_iff] at h
    exact .inl ⟨h.1, h.2, rfl⟩
  · rename_i h
    have h' : timedOut = true ∨ 4 ≤ r.col.toNat := by
      cases timedOut
      · right
        simpa [inDataCol_iff, Nat.lt_iff_add_one_le] using h
      · exact .inl rfl
    split
    · exact .inr (.inl ⟨h', (inDataRow_iff r).mp ‹_›, rfl⟩)
    · rename_i h2
      rw [inDataRow_iff] at h2
      exact .inr (.inr ⟨h', by omega, rfl⟩)

theorem confirmHeaderEdge_cases (p : Params) (r : Regs) :
    r.hdr.toNat = 7 ∧ confirmHeaderEdge p r = settleThen p .bitSample { r with hdr := r.hdr + 1 } ∨
      r.hdr.toNat ≠ 7 ∧ confirmHeaderEdge p r = enter .hdrWait { r with hdr := r.hdr + 1 } := by
  unfold confirmHeaderEdge
  split
  · exact .inl ⟨(lastHeaderEdge_iff r).mp ‹_›, rfl⟩
  · exact .inr ⟨mt (lastHeaderEdge_iff r).mpr ‹_›, rfl⟩

/-- The value of a byte after a shift: twice the old value plus the new bit, modulo 256 (R52). -/
theorem shiftIn_eq (v : Byte) (b : Bool) : shiftIn v b = BitVec.ofNat 8 (2 * v.toNat + b.toNat) := by
  revert v b
  decide

theorem getElem_colparAfter (b : Bool) (r : Regs) (c : Fin 5) :
    (colparAfter b r)[c] = if r.col.toNat = c.val then r.colpar[c] ^^ b else r.colpar[c] := by
  simp only [colparAfter, Fin.getElem_fin, Vector.getElem_setIfInBounds]
  split <;> simp_all

theorem getElem_idbufAfter (b : Bool) (r : Regs) (j : Fin 5) :
    (idbufAfter b r)[j] =
      if r.row.toNat ≤ 9 ∧ r.col.toNat ≤ 3 ∧ r.row.toNat / 2 = j.val then
        BitVec.ofNat 8 (2 * r.idbuf[j].toNat + b.toNat)
      else r.idbuf[j] := by
  have hj : r.row.toNat >>> 1 = r.row.toNat / 2 := by simp [Nat.shiftRight_eq_div_pow]
  by_cases h : r.row.toNat ≤ 9 ∧ r.col.toNat ≤ 3
  · rw [idbufAfter, if_pos (by simp [inDataRow_iff, inDataCol_iff, h])]
    simp only [idWrite, byteIndex, hj, Fin.getElem_fin, Vector.getElem_setIfInBounds, idRead, shiftIn_eq]
    by_cases hjj : r.row.toNat / 2 = j.val
    · simp [h, hjj]
    · simp [hjj]
  · rw [idbufAfter, if_neg (by simp [inDataRow_iff, inDataCol_iff]; omega), if_neg (by tauto)]

/-- The words that are next to come after an edge are those that came after it before. -/
theorem wordAt_passEdge (s : State) (k : Nat) : s.passEdge.wordAt k = s.wordAt (k + 1) := by
  simp [State.wordAt, Nat.add_comm, Nat.add_left_comm]

theorem wordAt_afterEdges (s : State) (n k : Nat) : (s.afterEdges n).wordAt k = s.wordAt (n + k) := by
  simp [State.wordAt, Nat.add_assoc]

theorem passEdge_afterEdges (s : State) (k : Nat) : (s.afterEdges k).passEdge = s.afterEdges (k + 1) := by
  simp [State.passEdge, State.afterEdges, Nat.add_assoc]

end Sys2Proof.Machine
end

