-- ==== Sys2Proof/Laws/PerInstr.lean ====
section
/-! SUPPORT. Facts about each instruction as syntax, one lemma per constructor. -/

namespace Sys2Proof.Laws

/-- The word the encoder writes for a well-formed instruction lies in the instruction's own row of the opcode table. -/
def TableMatch.Statement (i : Instr) : Prop := i.wf = true → i.tableRow.admits (encode i) = true

theorem TableMatch.reset (start line : Bool) : TableMatch.Statement (.reset start line) := by
  revert start line; simp only [Statement]; decide

theorem TableMatch.start (line : Bool) : TableMatch.Statement (.start line) := by
  revert line; simp only [Statement]; decide

theorem TableMatch.tick (line : Bool) : TableMatch.Statement (.tick line) := by
  revert line; simp only [Statement]; decide

theorem TableMatch.idle (line : Bool) : TableMatch.Statement (.idle line) := by
  revert line; simp only [Statement]; decide

theorem TableMatch.idleWait (line : Bool) : TableMatch.Statement (.idleWait line) := by
  revert line; simp only [Statement]; decide

theorem TableMatch.syncSettle (line : Bool) : TableMatch.Statement (.syncSettle line) := by
  revert line; simp only [Statement]; decide

theorem TableMatch.syncCheck (line : Bool) : TableMatch.Statement (.syncCheck line) := by
  revert line; simp only [Statement]; decide

theorem TableMatch.hdrWait (line : Bool) : TableMatch.Statement (.hdrWait line) := by
  revert line; simp only [Statement]; decide

theorem TableMatch.hdrSettle (line : Bool) : TableMatch.Statement (.hdrSettle line) := by
  revert line; simp only [Statement]; decide

theorem TableMatch.hdrCheck (line : Bool) : TableMatch.Statement (.hdrCheck line) := by
  revert line; simp only [Statement]; decide

theorem TableMatch.bitSettle (line : Bool) : TableMatch.Statement (.bitSettle line) := by
  revert line; simp only [Statement]; decide

theorem TableMatch.bitSample (line : Bool) : TableMatch.Statement (.bitSample line) := by
  revert line; simp only [Statement]; decide

theorem TableMatch.bitWait (line : Bool) : TableMatch.Statement (.bitWait line) := by
  revert line; simp only [Statement]; decide

theorem TableMatch.bitWaitRowEnd (timedOut : Bool) : TableMatch.Statement (.bitWaitRowEnd timedOut) := by
  revert timedOut; simp only [Statement]; decide

theorem TableMatch.bitWaitFinalCheck (timedOut : Bool) : TableMatch.Statement (.bitWaitFinalCheck timedOut) := by
  revert timedOut; simp only [Statement]; decide

theorem TableMatch.illegal10to11 (code : StateCode) (line : Bool) :
    TableMatch.Statement (.illegal10to11 code line) := by
  revert code line; simp only [Statement]; decide

theorem TableMatch.illegal12to15 (code : StateCode) (line : Bool) :
    TableMatch.Statement (.illegal12to15 code line) := by
  revert code line; simp only [Statement]; decide

end Sys2Proof.Laws
end

