-- ==== Sys2Proof/Laws/Run.lean ====
section
/-! SUPPORT. How runs of several edges come apart, and what a run that only moves the inputs on samples next. -/

namespace Sys2Proof.Machine

@[simp] theorem runEdges_zero (s : State) : s.runEdges 0 = .next s := rfl

theorem runEdges_succ {s t : State} (h : step s = .next t) (k : Nat) : s.runEdges (k + 1) = t.runEdges k := by
  rw [State.runEdges, h]

@[simp] theorem wordAt_setRegs (s : State) (r : Regs) (k : Nat) : (s.setRegs r).wordAt k = s.wordAt k := rfl

/-- After `n` edges the next one samples the word that was `n` edges away. -/
theorem inputWord_afterEdges (s : State) (r : Regs) (n : Nat) :
    ((s.afterEdges n).setRegs r).inputWord = s.wordAt n := by
  rw [State.inputWord, wordAt_setRegs, wordAt_afterEdges, Nat.add_zero]

theorem passEdge_setRegs (s : State) (r r' : Regs) : (s.setRegs r).passEdge.setRegs r' = s.passEdge.setRegs r' := rfl

end Sys2Proof.Machine
end

