-- ==== Sys2Proof/Tests/Slice0.lean ====
section
/-! SUPPORT. The model's own tests: the WellFormed smoke test, words written out from the spec's encodings, one-edge
tests whose expected values come from the examples and vectors of spec/, and one witness for every statement with
hypotheses. T = 5 and S = 2 as in spec/95_test_vectors.md unless a test says otherwise. -/

namespace Sys2Proof.Tests

open Sys2Proof.Machine

/-! ## Small states -/

/-- T = 5, S = 2, the parameters of spec/95_test_vectors.md. -/
def paramsFiveTwo : Params := { timeoutPred := 4, settle := 2 }

/-- T = 1, S = 0, the least legal parameters. -/
def paramsOneZero : Params := { timeoutPred := 0, settle := 0 }

/-- Registers that are 0 but for a busy state and the header count it has. -/
def busy (f : FsmState) (hdr : BitVec 4) : Regs := { Regs.reset with state := f, hdr := hdr }

/-- The last wait of a frame of zeros: BIT_WAIT at row 10, column 4. -/
def lastWait : Regs := { busy .bitWait 8 with row := 10, col := 4 }

/-- A state about to sample some words. -/
def about (r : Regs) (words : List InputWord) : State :=
  { regs := r, params := paramsFiveTwo, inputs := words, edge := 0 }

/-- The registers after one instruction. -/
def afterExec (i : Instr) (r : Regs) : Option Regs :=
  match exec i (about r []) with
  | .next t => some t.regs
  | .fault _ => none
  | .refused _ => none

/-- The registers after one edge. -/
def afterStep (r : Regs) (w : InputWord) : Option Regs :=
  match step (about r [w]) with
  | .next t => some t.regs
  | .fault _ => none
  | .refused _ => none

/-! ## WellFormed: each check refuses an ill-formed instruction -/

theorem test_wf_refuses_code_twelve_as_ten_eleven : (Instr.illegal10to11 12 false).wf = false := by decide

theorem test_wf_refuses_code_nine_as_ten_eleven : (Instr.illegal10to11 9 true).wf = false := by decide

theorem test_wf_refuses_code_eleven_as_twelve_fifteen : (Instr.illegal12to15 11 false).wf = false := by decide

/-! ## Decoding: words written out from spec/30_encoding.md R74, R78, R79 and spec/opcode_table.json -/

/-- Input words are 1xx RESET, 01l START, 00l TICK (R74). -/
theorem test_input_words_decode :
    decodeInput 0b100 = .reset false false ∧ decodeInput 0b101 = .reset false true ∧
    decodeInput 0b110 = .reset true false ∧ decodeInput 0b111 = .reset true true ∧
    decodeInput 0b010 = .start false ∧ decodeInput 0b011 = .start true ∧
    decodeInput 0b000 = .tick false ∧ decodeInput 0b001 = .tick true := by decide

/-- State codes 0000 to 0011: IDLE and the carrier wait and sync check (R78). -/
theorem test_carrier_codes_decode :
    decodeState 0b0000 true = .idle true ∧ decodeState 0b0001 false = .idleWait false ∧
    decodeState 0b0010 true = .syncSettle true ∧ decodeState 0b0011 false = .syncCheck false := by decide

/-- State codes 0100 to 0110: the header (R78). -/
theorem test_header_codes_decode :
    decodeState 0b0100 true = .hdrWait true ∧ decodeState 0b0101 false = .hdrSettle false ∧
    decodeState 0b0110 true = .hdrCheck true := by decide

/-- State codes 0111 to 1001: the matrix sampler; 1001 is also the code of BIT_WAIT's two micro-operations (R78). -/
theorem test_sampler_codes_decode :
    decodeState 0b0111 false = .bitSettle false ∧ decodeState 0b1000 true = .bitSample true ∧
    decodeState 0b1001 false = .bitWait false ∧
    decode (encode (.bitWaitRowEnd true)) = .bitWait false ∧
    decode (encode (.bitWaitFinalCheck true)) = .bitWait false := by decide

/-- State codes 101x and 11xx: the unused ones (R79). -/
theorem test_unused_codes_decode :
    decodeState 0b1010 true = .illegal10to11 0b1010 true ∧ decodeState 0b1011 false = .illegal10to11 0b1011 false ∧
    decodeState 0b1100 true = .illegal12to15 0b1100 true ∧ decodeState 0b1111 false = .illegal12to15 0b1111 false := by
  decide

/-- R86: reset first, START only with state code 0, and `start` ignored with every other code. -/
theorem test_edges_decode_in_order :
    decodeEdge 0b111 0b1001 = .reset true true ∧ decodeEdge 0b011 0b0000 = .start true ∧
    decodeEdge 0b011 0b0001 = .idleWait true ∧ decodeEdge 0b010 0b1100 = .illegal12to15 0b1100 false := by decide

/-- Table words: 3-bit input words, 4-bit state codes, and bytes of the model's layout (log 7). -/
theorem test_table_words_decode :
    decodeTableWord 3 4 = some (.reset false false) ∧ decodeTableWord 3 2 = some (.start false) ∧
    decodeTableWord 3 1 = some (.tick true) ∧ decodeTableWord 4 8 = some (.bitSample false) ∧
    decodeTableWord 8 9 = some (.bitWait false) ∧ decodeTableWord 8 12 = some (.illegal12to15 12 false) ∧
    decodeTableWord 8 0x40 = some (.reset false false) ∧ decodeTableWord 8 0x80 = none ∧
    decodeTableWord 3 8 = none ∧ decodeTableWord 5 0 = none := by decide

/-! ## One edge each -/

/-- The example of R250: BIT_WAIT with row 3, idbuf[0] = 0x12 and word 101. -/
theorem test_reset_clears_a_decode :
    afterStep { busy .bitWait 8 with row := 3, idbuf := #v[0x12, 0, 0, 0, 0] } 0b101 = some Regs.reset := by decide

/-- The example of R103: IDLE with word 011. -/
theorem test_start_begins :
    afterStep { Regs.reset with result := .ok, idbuf := #v[0x12, 0, 0, 0, 0] } 0b011 =
      some { Regs.reset with state := .idleWait } := by decide

/-- Vector C6: a START word meets state 12. -/
theorem test_start_word_recovers_state_twelve :
    afterExec (.start true) { Regs.reset with state := .unused 2, cnt := 7 } =
      some { Regs.reset with done := true } := by decide

/-- R74: TICK runs the operation of the current state code, here IDLE_WAIT's second poll (vector W7). -/
theorem test_tick_polls :
    afterExec (.tick true) { busy .idleWait 0 with cnt := 1 } = some { busy .idleWait 0 with cnt := 2 } := by decide

/-- The example of R102: IDLE with result OK and word 001. -/
theorem test_idle_keeps_result :
    afterStep { Regs.reset with result := .ok, done := true } 0b001 = some { Regs.reset with result := .ok } := by
  decide

/-- Vector W1, its last edge: NoCarrier at the fifth high poll. -/
theorem test_idle_wait_times_out :
    afterStep { busy .idleWait 0 with cnt := 4 } 0b001 =
      some { Regs.reset with result := .noCarrier, done := true } := by decide

/-- Vector W3, its last edge: an edge at the fifth poll beats the timeout. -/
theorem test_idle_wait_edge_beats_timeout :
    afterStep { busy .idleWait 0 with cnt := 4 } 0b000 = some (busy .syncSettle 0) := by decide

/-- Vector W4: the settle ticks read 0 and are ignored. -/
theorem test_sync_settle_ends :
    afterStep { busy .syncSettle 0 with cnt := 1 } 0b000 = some (busy .syncCheck 0) := by decide

/-- Vector H1, its last edge: the sync check reads 0. -/
theorem test_sync_check_low_fails :
    afterStep (busy .syncCheck 0) 0b000 = some { Regs.reset with result := .framingError, done := true } := by decide

/-- Vector H4, its last edge: HeaderTimeout in round 4 keeps hdr = 4. -/
theorem test_hdr_wait_times_out :
    afterStep { busy .hdrWait 4 with cnt := 4 } 0b001 =
      some { Regs.reset with hdr := 4, result := .headerTimeout, done := true } := by decide

/-- The example of R145: with S = 2 the first settle tick only counts. -/
theorem test_hdr_settle_counts :
    afterStep (busy .hdrSettle 3) 0b001 = some { busy .hdrSettle 3 with cnt := 1 } := by decide

/-- Vector H6, its last edge: the eighth check reads 0 and hdr stays 7. -/
theorem test_hdr_check_low_fails :
    afterStep (busy .hdrCheck 7) 0b000 =
      some { Regs.reset with hdr := 7, result := .framingError, done := true } := by decide

/-- Vector H8, its last edge: header lock. -/
theorem test_hdr_check_locks : afterStep (busy .hdrCheck 7) 0b001 = some (busy .bitSettle 8) := by decide

/-- The example of R170: with S = 2 the second settle tick leads to the sample. -/
theorem test_bit_settle_ends :
    afterStep { busy .bitSettle 8 with cnt := 1 } 0b001 = some (busy .bitSample 8) := by decide

/-- The example of R171: row 0, column 0, line 1. -/
theorem test_bit_sample_folds :
    afterStep (busy .bitSample 8) 0b001 =
      some { busy .bitWait 8 with
        dat := true, rowpar := true, colpar := #v[true, false, false, false, false]
        idbuf := #v[0x01, 0, 0, 0, 0] } := by decide

/-- The example of R175: dat = 1, column 2, row 3, the line 0 at the first poll. -/
theorem test_bit_wait_advances_column :
    afterStep { busy .bitWait 8 with dat := true, row := 3, col := 2 } 0b000 =
      some { busy .bitSettle 8 with dat := true, row := 3, col := 3 } := by decide

/-- Vector M5, its last edge: the wait of bit (10, 2) times out. -/
theorem test_bit_wait_times_out_in_row_ten :
    afterStep
        { busy .bitWait 8 with
          cnt := 4, row := 10, col := 2, dat := true, colpar := #v[false, false, false, true, true]
          idbuf := #v[0x12, 0x34, 0x56, 0x78, 0x9A] } 0b001 =
      some { Regs.reset with
        hdr := 8, row := 10, col := 2, dat := true, colpar := #v[false, false, false, true, true], tof := true
        idbuf := #v[0x12, 0x34, 0x56, 0x78, 0x9A], result := .timeout, done := true } := by decide

/-- The example of R200: row 3 odd at column 4 gives RowParityError with row 3 and column 4. -/
theorem test_row_end_refuses_odd_row :
    afterExec (.bitWaitRowEnd false) { busy .bitWait 8 with row := 3, col := 4, rowpar := true } =
      some { Regs.reset with
        hdr := 8, row := 3, col := 4, rowpar := true, result := .rowParityError, done := true } := by decide

/-- R201: OK when columns 0 to 3 are even, and Timeout before an odd column (vector M7). -/
theorem test_final_check_accepts_and_prefers_timeout :
    afterExec (.bitWaitFinalCheck false) { lastWait with colpar := #v[false, false, false, false, true] } =
      some { lastWait with
        colpar := #v[false, false, false, false, true], state := .idle, result := .ok, done := true } ∧
    afterExec (.bitWaitFinalCheck true) { lastWait with colpar := #v[false, true, false, false, false] } =
      some { lastWait with
        colpar := #v[false, true, false, false, false], state := .idle, result := .timeout, done := true } := by
  decide

/-- R109: code 10 recovers. -/
theorem test_code_ten_recovers :
    afterStep { Regs.reset with state := .unused 0, result := .ok } 0b000 = some { Regs.reset with done := true } := by
  decide

/-- Vector C5: state 12, cnt 7, word 001. -/
theorem test_code_twelve_recovers :
    afterStep { Regs.reset with state := .unused 2, cnt := 7 } 0b001 = some { Regs.reset with done := true } := by
  decide

/-- Vector P0's identifier at the port, R53. -/
theorem test_id_out_packs_five_bytes :
    ({ Regs.reset with result := .ok, idbuf := #v[0x12, 0x34, 0x56, 0x78, 0x9A] } : Regs).idOut = 0x123456789A := by
  decide

/-- R84: with S = 2, `MBIT 1` is three words 001 and one word 000. -/
theorem test_mbit_words : stimulus (stmtMbit 2 true) = [0b001, 0b001, 0b001, 0b000] := by decide

/-! ## Witnesses: states and operands that meet the hypotheses of the statements -/

theorem test_witness_reset_loads :
    let s := about (busy .bitWait 8) [0b100, 0b011]
    (∀ i < 1, (s.wordAt i).rst = true) ∧ s.wordAt 1 = InputWord.ofBits false true true := by decide

theorem test_witness_idle_holds :
    let s := about { Regs.reset with result := .ok, done := true } [0b001]
    s.regs.state = .idle ∧ 1 ≤ 1 ∧ ∀ i < 1, (s.wordAt i).rst = false ∧ (s.wordAt i).start = false := by decide

theorem test_witness_start_begins :
    (about Regs.reset []).regs.state = .idle ∧ (about (busy .idleWait 0) []).regs.state ≠ .idle ∧
    (about (busy .idleWait 0) []).Inv ∧ Regs.reset.result ≠ .ok ∧
    ∃ t, exec (.start true) (about Regs.reset [0b000]) = .next t ∧ t.inputWord.rst = false :=
  ⟨by decide, by decide, by decide, by decide, _, rfl, by decide⟩

theorem test_witness_unused_codes :
    (Instr.illegal10to11 10 true).wf = true ∧ (Instr.illegal10to11 11 false).wf = true ∧
    (Instr.illegal12to15 12 true).wf = true ∧ (Instr.illegal12to15 15 false).wf = true ∧
    (10 ≤ (FsmState.unused 0).code.toNat ∧ (about { Regs.reset with state := .unused 0 } [0b001]).inputWord.rst = false) ∧
    10 ≤ (FsmState.unused 5).code.toNat ∧ Reached State.reset [] :=
  ⟨by decide, by decide, by decide, by decide, by decide, by decide, .reset _ rfl⟩

theorem test_witness_only_eighth_check :
    ∃ t, step (about (busy .hdrCheck 7) [0b001]) = .next t ∧ (busy .hdrCheck 7).state.isBit = false ∧
      t.regs.state.isBit = true :=
  ⟨_, rfl, by decide, by decide⟩

theorem test_witness_column_advances :
    (true ≠ (busy .bitWait 8).dat ∧ (busy .bitWait 8).col.toNat ≤ 3) ∧
    (true ≠ (busy .bitWait 8).dat ∧ ({ busy .bitWait 8 with col := 3 } : Regs).col.toNat ≤ 3) := by decide

/-- Both ways a column ends, in row 9 and in row 10. -/
theorem test_witness_bit_wait_calls :
    (∀ row ∈ [(9 : BitVec 4), 10], true ≠ ({ lastWait with row := row } : Regs).dat ∧
      4 ≤ ({ lastWait with row := row } : Regs).col.toNat) ∧
    (∀ row ∈ [(9 : BitVec 4), 10], false = ({ lastWait with row := row, cnt := 4 } : Regs).dat ∧
      ({ lastWait with row := row, cnt := 4 } : Regs).cnt.toNat + 1 = paramsFiveTwo.T) ∧
    (9 : BitVec 4).toNat ≤ 9 ∧ 10 ≤ (10 : BitVec 4).toNat := by decide

theorem test_witness_row_ten :
    (∃ t, exec (.bitSample true) (about { lastWait with state := .bitSample } []) = .next t) ∧
    (∃ t, step (about { lastWait with rowpar := true } [0b001]) = .next t) ∧
    (∃ t, exec (.bitWaitFinalCheck true) (about lastWait []) = .next t) ∧
    lastWait.row = 10 ∧ lastWait.col = 4 ∧ true ≠ lastWait.dat ∧ lastWait.tof = false ∧
    ∀ c : Fin 4, lastWait.colpar[c.val] = false :=
  ⟨⟨_, rfl⟩, ⟨_, rfl⟩, ⟨_, rfl⟩, by decide, by decide, by decide, by decide, by decide⟩

theorem test_witness_column_four :
    (∃ t, step (about { busy .bitSample 8 with row := 9, col := 4 } [0b001]) = .next t) ∧
    (∃ t, exec (.bitWait true) (about lastWait []) = .next t) ∧ lastWait.row = 10 ∧ lastWait.col = 4 ∧
    ∃ t u, exec (.bitSample false) (about { lastWait with state := .bitSample } []) = .next t ∧
      exec (.bitSample true) (about { lastWait with state := .bitSample } []) = .next u :=
  ⟨⟨_, rfl⟩, ⟨_, rfl⟩, by decide, by decide, _, _, rfl, rfl⟩

theorem test_witness_edge_decoding :
    ¬ ((0 : StateCode) = 0 ∧ false = true) ∧ ¬ ((15 : StateCode) = 0 ∧ true = true) ∧ 10 ≤ (10 : StateCode).toNat ∧
      10 ≤ (15 : StateCode).toNat := by decide

theorem test_witness_round_trip :
    (Instr.illegal12to15 15 true).wf = true ∧ (Instr.illegal12to15 15 true).hasOwnWord = true ∧
      (Instr.bitWaitRowEnd true).hasOwnWord = false := by decide

theorem test_witness_byte_seven : (0x80 : Byte).getLsbD 7 = true := by decide

/-- A word of each width, at the ends of its range. -/
theorem test_witness_table_word :
    decodeTableWord 8 0x7F = some (.reset true true) ∧ decodeTableWord 4 15 = some (.illegal12to15 15 false) ∧
    decodeTableWord 4 0 = some (.idle false) ∧ decodeTableWord 3 7 = some (.reset true true) ∧
    decodeTableWord 3 0 = some (.tick false) := by decide

theorem test_witness_result_codes : ResultCode.timeout.code = ResultCode.timeout.code := by decide

theorem test_witness_step_runs : (about Regs.reset [0b011]).inputs = [0b011] ∧ (about Regs.reset []).inputs = [] := by
  decide

theorem test_witness_parameters : ∃ t, step (about (busy .hdrWait 0) [0b001]) = .next t := ⟨_, rfl⟩

/-- Two states that differ in the words after the next one and in the edge number. -/
theorem test_witness_next_registers :
    let s := about Regs.reset [0b011]
    let s' : State := { s with inputs := [0b011, 0b000], edge := 7 }
    s.regs = s'.regs ∧ s.params = s'.params ∧ s.inputWord = s'.inputWord ∧
      ∃ t t', step s = .next t ∧ step s' = .next t' :=
  ⟨rfl, rfl, rfl, _, _, rfl, rfl⟩

theorem test_witness_done_pulse :
    ∃ t, step (about lastWait [0b001]) = .next t ∧ (about lastWait [0b001]).inputWord.rst = false ∧
      t.regs.done = true :=
  ⟨_, rfl, by decide, by decide⟩

theorem test_witness_start_ignored :
    let s := about (busy .idleWait 0) [0b011]
    s.regs.state ≠ .idle ∧ s.inputWord.rst = false ∧ ∃ t, step s = .next t ∧ t.regs.state = .idleWait :=
  ⟨by decide, by decide, _, rfl, by decide⟩

theorem test_witness_completion_then_start :
    ∀ w ∈ [(0b011 : InputWord), 0b001],
      let s := about lastWait [0b001, w]
      s.regs.state ≠ .idle ∧ s.inputWord.rst = false ∧
        ∃ t u, step s = .next t ∧ t.regs.state = .idle ∧ t.inputWord.rst = false ∧ step t = .next u := by
  intro w hw
  simp only [List.mem_cons, List.not_mem_nil, or_false] at hw
  rcases hw with rfl | rfl <;> exact ⟨by decide, by decide, _, _, rfl, by decide, by decide, rfl⟩

theorem test_witness_line_matters :
    (about Regs.reset []).regs.state = .idle ∧ (busy .bitWait 8).tof = false ∧
      (busy .bitWait 8).state ∈ [FsmState.idleWait, .syncCheck, .hdrWait, .hdrCheck, .bitSample, .bitWait] := by
  decide

theorem test_witness_priorities :
    (about lastWait [0b110]).inputWord.rst = true ∧
    ({ busy .idleWait 0 with cnt := 4 } : Regs).cnt.toNat + 1 = paramsFiveTwo.T ∧
    (∃ t, exec (.idleWait false) (about { busy .idleWait 0 with cnt := 4 } []) = .next t) ∧
    (∃ t, exec (.hdrWait false) (about { busy .hdrWait 0 with cnt := 4 } []) = .next t) ∧
    (∃ t, exec (.bitWait true) (about { busy .bitWait 8 with cnt := 4 } []) = .next t) ∧
    (∃ t, exec (.bitWaitRowEnd true) (about { busy .bitWait 8 with rowpar := true } []) = .next t) ∧
    (∀ c : Fin 4, (∃ k : Fin 4, (lastWait.colpar.set c.val true)[k.val] = true) ∧
      ∃ t, exec (.bitWaitFinalCheck true)
        (about { lastWait with colpar := lastWait.colpar.set c.val true } []) = .next t) ∧
    (about lastWait [0b011]).inputWord.rst = false ∧ (about lastWait [0b011]).inputWord.start = true ∧
    ∃ t, step (about lastWait [0b011]) = .next t ∧ t.regs.done = true :=
  ⟨by decide, by decide, ⟨_, rfl⟩, ⟨_, rfl⟩, ⟨_, rfl⟩, ⟨_, rfl⟩, fun c => ⟨⟨c, by revert c; decide⟩, _, rfl⟩, by decide,
    by decide, _, rfl, by decide⟩

theorem test_witness_result_cause :
    let s := about lastWait [0b001]
    s.Inv ∧ s.regs.state ≠ .idle ∧ s.inputWord.rst = false ∧ ∃ t, step s = .next t ∧ t.regs.state = .idle :=
  ⟨by decide, by decide, by decide, _, rfl, by decide⟩

theorem test_witness_transition :
    ∃ t, step (about { busy .idleWait 0 with cnt := 4 } [0b000]) = .next t ∧ t.regs.state ≠ .idleWait :=
  ⟨_, rfl, by decide⟩

/-- Both writers: an accepted START over a used buffer, and a sampled 1 in row 9. -/
theorem test_witness_buffer_writers :
    (∃ t, step (about { Regs.reset with idbuf := #v[0x12, 0, 0, 0, 0] } [0b010]) = .next t ∧
      t.regs.idbuf[0] ≠ (0x12 : Byte)) ∧
    ∃ t, step (about { busy .bitSample 8 with row := 9, col := 3 } [0b001]) = .next t ∧
      t.regs.idbuf[4] ≠ (0 : Byte) :=
  ⟨⟨_, rfl, by decide⟩, _, rfl, by decide⟩

/-- The least and the greatest number of polls, in each wait. -/
theorem test_witness_wait_polls :
    ∀ r ∈ [busy .idleWait 0, busy .hdrWait 0, { busy .bitWait 8 with dat := true }], ∀ p ∈ [1, 4],
      let s := about r [0b001, 0b001, 0b001, 0b001]
      s.regs.state.isWait = true ∧ s.regs.cnt = 0 ∧ 1 ≤ p ∧ p < s.params.T ∧ s.noReset p ∧
        ∀ i < p, (s.wordAt i).line = if s.regs.state = .bitWait then s.regs.dat else true := by decide

/-- The first and the T-th poll, low and high. -/
theorem test_witness_carrier_polls :
    (let s := about Regs.reset [0b011, 0b000]
     s.regs.state = .idle ∧ (s.wordAt 0).start = true ∧ s.noReset 2 ∧ (∀ i < 0, (s.wordAt (i + 1)).line = true) ∧
       (s.wordAt 1).line = false) ∧
    ∀ last ∈ [(0b000 : InputWord), 0b001],
      let s := about Regs.reset [0b011, 0b001, 0b001, 0b001, 0b001, last]
      s.noReset 6 ∧ 5 = s.params.T ∧ (∀ i < 4, (s.wordAt (i + 1)).line = true) ∧
        (s.wordAt 5).line = last.getLsbD 0 := by decide

theorem test_witness_settle :
    ∀ x ∈ [SettleTarget.syncCheck, .hdrCheck, .bitSample],
      let s := about (busy x.settleState 0) [0b000, 0b011]
      s.regs.state = x.settleState ∧ s.regs.cnt = 0 ∧ 1 ≤ s.params.S ∧ s.noReset s.params.S ∧
        1 ≤ 1 ∧ 1 < s.params.S := by decide

/-- A round whose edge is at the first poll and one whose edge is at the T-th, with a high check. -/
theorem test_witness_checked_round :
    ∀ r ∈ [busy .idleWait 0, busy .hdrWait 7],
      (let s := about r [0b000, 0b000, 0b000, 0b001]
       (s.regs.state = .idleWait ∨ s.regs.state = .hdrWait) ∧ s.regs.cnt = 0 ∧ s.noReset (1 + s.params.S + 1) ∧
         (s.wordAt 0).line = false ∧ (s.wordAt (1 + s.params.S)).line = true) ∧
      let s := about r [0b001, 0b001, 0b001, 0b001, 0b000, 0b000, 0b000, 0b001]
      5 = s.params.T ∧ s.noReset (5 + s.params.S + 1) ∧ (∀ i < 4, (s.wordAt i).line = true) ∧
        (s.wordAt 4).line = false ∧ (s.wordAt (5 + s.params.S)).line = true := by decide

/-- A data bit 1 whose edge is at the first poll and one whose edge is at the T-th. -/
theorem test_witness_data_bit :
    (let s := about (busy .bitSettle 8) [0b000, 0b000, 0b001, 0b000]
     s.regs.state = (if s.params.S = 0 then .bitSample else .bitSettle) ∧ s.regs.cnt = 0 ∧
       s.noReset (s.params.S + 1 + 1) ∧ (∀ i < 1, (s.wordAt (s.params.S + i)).line = true) ∧
       (s.wordAt (s.params.S + 1)).line = !true) ∧
    let s := about (busy .bitSettle 8) [0b000, 0b000, 0b001, 0b001, 0b001, 0b001, 0b001, 0b000]
    5 = s.params.T ∧ s.noReset (s.params.S + 1 + 5) ∧ (∀ i < 5, (s.wordAt (s.params.S + i)).line = true) ∧
      (s.wordAt (s.params.S + 5)).line = !true := by decide

theorem test_witness_step_keeps :
    ∃ t, step (about { busy .bitSample 8 with row := 9, col := 3 } [0b001]) = .next t ∧
      (about { busy .bitSample 8 with row := 9, col := 3 } [0b001]).Inv :=
  ⟨_, rfl, by decide⟩

/-- The last wait of a frame of zeros owes what it should to 55 zeros, and so does the first sample to no bit. -/
theorem test_witness_captured :
    lastWait.Captured (List.replicate 55 false) ∧ (about lastWait [0b001]).Inv ∧ (busy .bitSample 8).Captured [] :=
  ⟨⟨by decide, by decide, by decide, by decide, by decide, by decide, by decide⟩, by decide,
    by decide, by decide, by decide, by decide, by decide, by decide, by decide⟩

theorem test_witness_reached :
    Reached (about Regs.reset [0b011]) [] ∧ ∃ t, step (about Regs.reset [0b011]) = .next t ∧
      Reached t ((about Regs.reset [0b011]).bitsAfter []) :=
  ⟨.reset _ rfl, _, rfl, .edge _ _ _ (.reset _ rfl) rfl⟩

/-- The final edge of a frame of zeros: it is clean, and it ends with OK. -/
theorem test_witness_ok :
    let s := about lastWait [0b001]
    s.regs.state = .bitWait ∧ s.regs.row = 10 ∧ s.regs.col = 4 ∧ (List.replicate 55 false).length = 55 ∧
      (∀ c < 4, colSum (List.replicate 55 false) c = false) ∧ s.inputWord.rst = false ∧
      s.inputWord.line ≠ s.regs.dat ∧ ∃ t, step s = .next t ∧ t.regs.result = .ok :=
  ⟨by decide, by decide, by decide, by decide, by decide, by decide, by decide, _, rfl, by decide⟩

theorem test_witness_identifier : ({ Regs.reset with result := .ok } : Regs).result = .ok := by decide

theorem test_witness_flip : 0 < 55 ∧ 54 < 55 ∧ (List.replicate 55 true).length = 55 := by decide

theorem test_witness_latency :
    let s := about Regs.reset [0b010]
    let u := about lastWait [0b001]
    s.regs.state = .idle ∧ s.inputWord.rst = false ∧ s.inputWord.start = true ∧ (∃ t, step s = .next t) ∧
      u.Inv ∧ u.regs.state ≠ .idle ∧ u.inputWord.rst = false ∧ ∃ t, step u = .next t ∧ t.regs.state = .idle :=
  ⟨by decide, by decide, by decide, ⟨_, rfl⟩, by decide, by decide, by decide, _, rfl, by decide⟩

/-- T = 1 and S = 0, the least parameters: a START and then high words. -/
theorem test_witness_ends_in_time :
    let s : State :=
      { regs := Regs.reset, params := paramsOneZero, inputs := 0b011 :: List.replicate 128 0b001, edge := 0 }
    s.Inv ∧ s.regs.state = .idle ∧ s.inputWord.start = true ∧
      s.noReset (64 * (s.params.T + s.params.S + 1) + 1) := by
  refine ⟨by decide, by decide, by decide, ?_⟩
  intro i hi
  rcases i with _ | i
  · decide
  · have h1 : i + 1 < 129 := hi
    have h2 : i < 128 := by omega
    have h : (List.replicate 128 (0b001 : InputWord))[i]? = some 0b001 := by
      rw [List.getElem?_replicate, if_pos h2]
    rw [State.wordAt, List.getElem?_cons_succ, h, Option.getD_some]
    decide

end Sys2Proof.Tests
end

section
/-! PROOF. One edge as a function of the registers: what `step` does is said once here, by the state the edge starts
in, so that proofs about edges neither decode an instruction nor unfold `exec`. -/

namespace Sys2Proof.Machine

/-- The operation of an edge with `rst = 0` on the registers, by the state it starts in (R78, R102, R103, R111). -/
def edgeOp (p : Params) (start line : Bool) : FsmState → Regs → Regs
  | .idle => if start then beginDecode else id
  | .idleWait => waitStep p true line (settleThen p .syncCheck) (finish .noCarrier)
  | .syncSettle => settleStep p .syncCheck
  | .syncCheck => fun r => if line then enter .hdrWait r else finish .framingError r
  | .hdrWait => waitStep p true line (settleThen p .hdrCheck) (finish .headerTimeout)
  | .hdrSettle => settleStep p .hdrCheck
  | .hdrCheck => fun r => if line then confirmHeaderEdge p r else finish .framingError r
  | .bitSettle => settleStep p .bitSample
  | .bitSample => sampleBit line
  | .bitWait => fun r => waitStep p r.dat line (columnEnd p false) (dataTimeout p) r
  | .unused _ => finish .none

/-- The registers after an edge that samples `w` (R72, R100, R101). -/
def edgeRegs (p : Params) (w : InputWord) (r : Regs) : Regs :=
  if w.rst then Regs.reset else edgeOp p w.start w.line r.state (clearDone r)

theorem edgeRegs_of_rst {w : InputWord} (h : w.rst = true) (p : Params) (r : Regs) :
    edgeRegs p w r = Regs.reset := if_pos h

theorem edgeRegs_of_not_rst {w : InputWord} (h : w.rst = false) (p : Params) (r : Regs) :
    edgeRegs p w r = edgeOp p w.start w.line r.state (clearDone r) := by
  simp [edgeRegs, h]

theorem ofCode_code (f : FsmState) : FsmState.ofCode f.code = f := by
  cases f with
  | unused k => revert k; decide
  | _ => rfl

theorem code_eq_zero_iff (f : FsmState) : f.code = 0 ↔ f = .idle := by
  cases f with
  | unused k => revert k; decide
  | _ => decide

/-- The operation of a state's own code is the one `edgeOp` gives the state at `start = 0` (R86). -/
theorem exec_decodeState (line : Bool) (s : State) :
    exec (decodeState s.regs.state.code line) s = .next (s.tickWith (edgeOp s.params false line s.regs.state)) := by
  rw [decodeState, ofCode_code]
  cases s.regs.state with
  | unused k => dsimp only; split <;> rfl
  | _ => rfl

/-- Outside IDLE the `start` bit is not read (R111). -/
theorem edgeOp_start_of_ne_idle {f : FsmState} (hf : f ≠ .idle) (p : Params) (start line : Bool) :
    edgeOp p start line f = edgeOp p false line f := by
  cases f with
  | idle => exact absurd rfl hf
  | _ => rfl

/-- Every edge passes its input word and leaves the registers that `edgeRegs` gives. -/
theorem step_eq (s : State) :
    step s = .next (s.passEdge.setRegs (edgeRegs s.params s.inputWord s.regs)) := by
  unfold step State.fetch decodeEdge
  by_cases hr : s.inputWord.rst = true
  · rw [if_pos hr, edgeRegs_of_rst hr]
    rfl
  rw [if_neg hr, edgeRegs_of_not_rst (by simpa using hr)]
  by_cases hs : s.regs.state.code = 0 ∧ s.inputWord.start = true
  · have hidle : s.regs.state = .idle := (code_eq_zero_iff _).mp hs.1
    rw [if_pos hs, hidle, hs.2]
    simp only [exec, execStart, passEdge_regs, hidle]
    rfl
  rw [if_neg hs, ← passEdge_regs, exec_decodeState, passEdge_regs, passEdge_params]
  have hop : edgeOp s.params false s.inputWord.line s.regs.state =
      edgeOp s.params s.inputWord.start s.inputWord.line s.regs.state := by
    by_cases hidle : s.regs.state = .idle
    · have hstart : s.inputWord.start = false := by simpa [(code_eq_zero_iff _).mpr hidle] using hs
      rw [hstart]
    · exact (edgeOp_start_of_ne_idle hidle _ _ _).symm
  rw [hop]
  rfl

theorem step_next_iff (s t : State) :
    step s = .next t ↔ t = s.passEdge.setRegs (edgeRegs s.params s.inputWord s.regs) := by
  rw [step_eq, Host.Outcome.next.injEq, eq_comm]

end Sys2Proof.Machine
end

section
/-! PROOF. Every edge keeps R38 items 1 to 5: one lemma for each shared operation, then a walk over the states. -/

namespace Sys2Proof

/-! ## The kinds of each state -/

@[simp] theorem FsmState.idle_kinds :
    FsmState.idle.isWait = false ∧ FsmState.idle.isSettle = false ∧ FsmState.idle.isCarrier = false ∧
      FsmState.idle.isHeader = false ∧ FsmState.idle.isBit = false ∧ FsmState.idle.isUnused = false := by decide

@[simp] theorem FsmState.idleWait_kinds :
    FsmState.idleWait.isWait = true ∧ FsmState.idleWait.isSettle = false ∧ FsmState.idleWait.isCarrier = true ∧
      FsmState.idleWait.isHeader = false ∧ FsmState.idleWait.isBit = false ∧
      FsmState.idleWait.isUnused = false := by decide

@[simp] theorem FsmState.syncSettle_kinds :
    FsmState.syncSettle.isWait = false ∧ FsmState.syncSettle.isSettle = true ∧
      FsmState.syncSettle.isCarrier = true ∧ FsmState.syncSettle.isHeader = false ∧
      FsmState.syncSettle.isBit = false ∧ FsmState.syncSettle.isUnused = false := by decide

@[simp] theorem FsmState.syncCheck_kinds :
    FsmState.syncCheck.isWait = false ∧ FsmState.syncCheck.isSettle = false ∧
      FsmState.syncCheck.isCarrier = true ∧ FsmState.syncCheck.isHeader = false ∧
      FsmState.syncCheck.isBit = false ∧ FsmState.syncCheck.isUnused = false := by decide

@[simp] theorem FsmState.hdrWait_kinds :
    FsmState.hdrWait.isWait = true ∧ FsmState.hdrWait.isSettle = false ∧ FsmState.hdrWait.isCarrier = false ∧
      FsmState.hdrWait.isHeader = true ∧ FsmState.hdrWait.isBit = false ∧
      FsmState.hdrWait.isUnused = false := by decide

@[simp] theorem FsmState.hdrSettle_kinds :
    FsmState.hdrSettle.isWait = false ∧ FsmState.hdrSettle.isSettle = true ∧
      FsmState.hdrSettle.isCarrier = false ∧ FsmState.hdrSettle.isHeader = true ∧
      FsmState.hdrSettle.isBit = false ∧ FsmState.hdrSettle.isUnused = false := by decide

@[simp] theorem FsmState.hdrCheck_kinds :
    FsmState.hdrCheck.isWait = false ∧ FsmState.hdrCheck.isSettle = false ∧
      FsmState.hdrCheck.isCarrier = false ∧ FsmState.hdrCheck.isHeader = true ∧
      FsmState.hdrCheck.isBit = false ∧ FsmState.hdrCheck.isUnused = false := by decide

@[simp] theorem FsmState.bitSettle_kinds :
    FsmState.bitSettle.isWait = false ∧ FsmState.bitSettle.isSettle = true ∧
      FsmState.bitSettle.isCarrier = false ∧ FsmState.bitSettle.isHeader = false ∧
      FsmState.bitSettle.isBit = true ∧ FsmState.bitSettle.isUnused = false := by decide

@[simp] theorem FsmState.bitSample_kinds :
    FsmState.bitSample.isWait = false ∧ FsmState.bitSample.isSettle = false ∧
      FsmState.bitSample.isCarrier = false ∧ FsmState.bitSample.isHeader = false ∧
      FsmState.bitSample.isBit = true ∧ FsmState.bitSample.isUnused = false := by decide

@[simp] theorem FsmState.bitWait_kinds :
    FsmState.bitWait.isWait = true ∧ FsmState.bitWait.isSettle = false ∧ FsmState.bitWait.isCarrier = false ∧
      FsmState.bitWait.isHeader = false ∧ FsmState.bitWait.isBit = true ∧
      FsmState.bitWait.isUnused = false := by decide

@[simp] theorem FsmState.isUnused_unused (k : Fin 6) : (FsmState.unused k).isUnused = true := rfl

theorem FsmState.code_le_nine {f : FsmState} (h : f.isUnused = false) : f.code.toNat ≤ 9 := by
  cases f with
  | unused k => simp at h
  | _ => decide

end Sys2Proof

namespace Sys2Proof.Machine

/-- A settle state and the state it leads to are never unused, and lie in the same part of the decode. -/
theorem SettleTarget.settleState_kinds (x : SettleTarget) :
    x.settleState.isWait = false ∧ x.settleState.isSettle = true ∧ x.settleState.isUnused = false ∧
      x.settleState.isCarrier = x.state.isCarrier ∧ x.settleState.isHeader = x.state.isHeader ∧
      x.settleState.isBit = x.state.isBit ∧ x.settleState ≠ .idle ∧ x.settleState ≠ .bitWait := by
  cases x <;> decide

theorem SettleTarget.state_kinds (x : SettleTarget) :
    x.state.isWait = false ∧ x.state.isSettle = false ∧ x.state.isUnused = false ∧
      x.state ≠ .idle ∧ x.state ≠ .bitWait := by
  cases x <;> decide

/-! ## Parts of the invariant -/

variable {p : Params} {r : Regs}

theorem Regs.Inv.hdr_le (h : r.Inv p) : r.hdr.toNat ≤ 8 := by
  obtain ⟨-, -, -, -, hhdr, -⟩ := h
  exact hhdr

theorem Regs.Inv.row_le (h : r.Inv p) : r.row.toNat ≤ 10 := by
  obtain ⟨-, -, -, -, -, -, -, -, hrow, -⟩ := h
  exact hrow

theorem Regs.Inv.col_le (h : r.Inv p) : r.col.toNat ≤ 4 := by
  obtain ⟨-, -, -, -, -, -, -, -, -, hcol, -⟩ := h
  exact hcol

/-- Before the first data bit the capture indices are those of bit (0, 0). -/
theorem Regs.Inv.row_col_eq_zero (h : r.Inv p) (hf : r.state.isCarrier = true ∨ r.state.isHeader = true) :
    r.row = 0 ∧ r.col = 0 := by
  obtain ⟨-, -, -, -, -, -, -, -, -, -, hzero, -⟩ := h
  exact hzero hf

/-! ## Counting and completing -/

theorem toNat_add_one_of_lt {w : Nat} {x : BitVec w} (h : x.toNat + 1 < 2 ^ w) : (x + 1).toNat = x.toNat + 1 := by
  have h1 : (1 : BitVec w).toNat = 1 := by
    simp [BitVec.toNat_ofNat, Nat.mod_eq_of_lt (show 1 < 2 ^ w by omega)]
  rw [BitVec.toNat_add_of_lt (by rwa [h1]), h1]

theorem clearDone_inv (h : r.Inv p) : (clearDone r).Inv p := by
  obtain ⟨hu, hw, hs, hc, hh, hca, hhe, hb, hr, hco, hrc, hq⟩ := h
  exact ⟨hu, hw, hs, hc, hh, hca, hhe, hb, hr, hco, hrc, fun hi => ⟨(hq hi).1, rfl, (hq hi).2.2⟩⟩

theorem reset_inv (p : Params) : Regs.reset.Inv p := by simp [Regs.Inv]

/-- Completing needs the three bounds alone, not the flags that hold while busy. -/
theorem finish_inv_of_bounds (code : ResultCode) (hh : r.hdr.toNat ≤ 8) (hr : r.row.toNat ≤ 10)
    (hc : r.col.toNat ≤ 4) : (finish code r).Inv p := by
  simp [Regs.Inv, hh, hr, hc]

theorem finish_inv (code : ResultCode) (h : r.Inv p) : (finish code r).Inv p :=
  finish_inv_of_bounds code h.hdr_le h.row_le h.col_le

theorem beginDecode_inv (hd : r.done = false) : (beginDecode r).Inv p := by simp [Regs.Inv, hd]

/-- A counter that has not reached its bound may count once more. -/
theorem cnt_add_one_inv (h : r.Inv p) (hk : r.state.isWait = true ∨ r.state.isSettle = true)
    (hT : r.state.isWait = true → r.cnt.toNat + 1 ≠ p.T)
    (hS : r.state.isSettle = true → r.cnt.toNat + 1 ≠ p.S) :
    ({ r with cnt := r.cnt + 1 } : Regs).Inv p := by
  obtain ⟨hu, hw, hs, hc, hrest⟩ := h
  have hTle : p.T ≤ 65536 := p.T_le
  have hSle : p.S ≤ 65536 := p.S_le
  refine ⟨hu, fun hi => ?_, fun hi => ?_, fun hi hi' => ?_, hrest⟩
  · have hle := hw hi
    have hne := hT hi
    have hT1 := p.T_pos
    rw [toNat_add_one_of_lt (by omega)]
    omega
  · obtain ⟨hS1, hle⟩ := hs hi
    have hne := hS hi
    refine ⟨hS1, ?_⟩
    rw [toNat_add_one_of_lt (by omega)]
    omega
  · simp [hi, hi'] at hk

/-! ## Moving on -/

/-- Entering a state of the same part of the decode with the counter at 0. A settle state is entered by `settleThen`. -/
theorem enter_inv {f : FsmState} (h : r.Inv p) (hbusy : r.state ≠ .idle) (hf : f.isUnused = false)
    (hs : f.isSettle = true → 1 ≤ p.S)
    (hk : f.isCarrier = r.state.isCarrier ∧ f.isHeader = r.state.isHeader ∧ f.isBit = r.state.isBit) :
    (enter f r).Inv p := by
  obtain ⟨-, -, -, -, hh, hca, hhe, hb, hr, hc, hrc, hq⟩ := h
  obtain ⟨hk1, hk2, hk3⟩ := hk
  exact ⟨hf, fun _ => Nat.zero_le _, fun hi => ⟨hs hi, Nat.zero_le _⟩, fun _ _ => rfl, hh, hk1 ▸ hca,
    hk2 ▸ hhe, hk3 ▸ hb, hr, hc, by simpa [hk1, hk2] using hrc, fun _ => hq hbusy⟩

theorem settleThen_inv {x : SettleTarget} (h : (enter x.state r).Inv p) : (settleThen p x r).Inv p := by
  obtain ⟨-, -, hu, hk1, hk2, hk3, -, -⟩ := x.settleState_kinds
  obtain ⟨-, -, -, hne, -⟩ := x.state_kinds
  rcases settleThen_cases p x r with ⟨-, e⟩ | ⟨hS, e⟩ <;> rw [e]
  · exact h
  · exact enter_inv (r := enter x.state r) h hne hu (fun _ => hS) ⟨hk1, hk2, hk3⟩

theorem settleStep_inv {x : SettleTarget} (h : r.Inv p) (hx : r.state = x.settleState) :
    (settleStep p x r).Inv p := by
  obtain ⟨hw, hset, -, hk1, hk2, hk3, hne, -⟩ := x.settleState_kinds
  obtain ⟨-, hns, hu, -, -⟩ := x.state_kinds
  rcases settleStep_cases p x r with ⟨-, e⟩ | ⟨hcnt, e⟩ <;> rw [e]
  · exact enter_inv h (hx ▸ hne) hu (by simp [hns]) (by simp [hx, hk1, hk2, hk3])
  · exact cnt_add_one_inv h (.inr (hx ▸ hset)) (by simp [hx, hw]) (fun _ => hcnt)

theorem waitStep_inv {level line : Bool} {onEdge onTimeout : Regs → Regs} (h : r.Inv p)
    (hw : r.state.isWait = true) (hns : r.state.isSettle = false) (he : (onEdge r).Inv p)
    (ht : (onTimeout r).Inv p) : (waitStep p level line onEdge onTimeout r).Inv p := by
  rcases waitStep_cases p level line onEdge onTimeout r with ⟨-, e⟩ | ⟨-, -, e⟩ | ⟨-, hcnt, e⟩ <;> rw [e]
  · exact he
  · exact ht
  · exact cnt_add_one_inv h (.inl hw) (fun _ => hcnt) (by simp [hns])

/-! ## The header and the columns -/

theorem enter_hdrWait_inv_of_syncCheck (h : r.Inv p) (hf : r.state = .syncCheck) : (enter .hdrWait r).Inv p := by
  simp_all [Regs.Inv]

theorem confirmHeaderEdge_inv (h : r.Inv p) (hf : r.state = .hdrCheck) : (confirmHeaderEdge p r).Inv p := by
  have hh : r.hdr.toNat ≤ 7 := by simp_all [Regs.Inv]
  have hinc : (r.hdr + 1).toNat = r.hdr.toNat + 1 := toNat_add_one_of_lt (by omega)
  rcases confirmHeaderEdge_cases p r with ⟨h7, e⟩ | ⟨h7, e⟩ <;> rw [e]
  · apply settleThen_inv
    simp_all [Regs.Inv, SettleTarget.state]
  · simp_all [Regs.Inv]
    omega

/-- From a finished column to the next sample: only the bounds of its row and column are asked. -/
theorem enter_bitSample_inv (h : r.Inv p) (hf : r.state = .bitWait) {row : BitVec 4} {col : BitVec 3} {b : Bool}
    (hrow : row.toNat ≤ 10) (hcol : col.toNat ≤ 4) :
    (enter .bitSample { r with row := row, col := col, rowpar := b }).Inv p := by
  simp_all [Regs.Inv]

theorem finalCheck_eq_finish (timedOut : Bool) (r : Regs) : ∃ code, finalCheck timedOut r = finish code r := by
  rcases finalCheck_cases timedOut r with ⟨-, e⟩ | ⟨-, -, -, e⟩ | ⟨-, -, -, e⟩ <;> exact ⟨_, e⟩

/-- A data-edge timeout always ends the decode, in a data row by its row-end check (R177). -/
theorem dataTimeout_eq_finish (p : Params) (r : Regs) :
    ∃ code, dataTimeout p r = finish code { r with tof := true } := by
  unfold dataTimeout
  rcases columnEnd_cases p true { r with tof := true } with ⟨hf, -, -⟩ | ⟨-, -, e⟩ | ⟨-, -, e⟩
  · simp at hf
  · rcases rowEnd_cases p true { r with tof := true } with ⟨-, e'⟩ | ⟨-, -, hf, -⟩
    · exact ⟨_, e.trans e'⟩
    · simp at hf
  · rw [e]
    exact finalCheck_eq_finish true _

theorem rowEnd_inv (h : r.Inv p) (hf : r.state = .bitWait) (hrow : r.row.toNat ≤ 9) (timedOut : Bool) :
    (rowEnd p timedOut r).Inv p := by
  rcases rowEnd_cases p timedOut r with ⟨-, e⟩ | ⟨-, -, -, e⟩ <;> rw [e]
  · exact finish_inv _ h
  · have hinc : (r.row + 1).toNat = r.row.toNat + 1 := toNat_add_one_of_lt (by omega)
    exact settleThen_inv (enter_bitSample_inv h hf (by omega) (by simp))

theorem columnEnd_inv (h : r.Inv p) (hf : r.state = .bitWait) (timedOut : Bool) :
    (columnEnd p timedOut r).Inv p := by
  rcases columnEnd_cases p timedOut r with ⟨-, hcol, e⟩ | ⟨-, hrow, e⟩ | ⟨-, -, e⟩ <;> rw [e]
  · have hinc : (r.col + 1).toNat = r.col.toNat + 1 := toNat_add_one_of_lt (by omega)
    exact settleThen_inv (enter_bitSample_inv h hf h.row_le (by omega))
  · exact rowEnd_inv h hf hrow timedOut
  · obtain ⟨code, e'⟩ := finalCheck_eq_finish timedOut r
    rw [e']
    exact finish_inv code h

theorem dataTimeout_inv (h : r.Inv p) : (dataTimeout p r).Inv p := by
  obtain ⟨code, e⟩ := dataTimeout_eq_finish p r
  rw [e]
  exact finish_inv_of_bounds code h.hdr_le h.row_le h.col_le

/-! ## Every edge -/

theorem edgeOp_inv (h : r.Inv p) (hd : r.done = false) (start line : Bool) :
    (edgeOp p start line r.state r).Inv p := by
  cases hf : r.state with
  | idle =>
    cases start with
    | true => exact beginDecode_inv hd
    | false => exact h
  | idleWait =>
    exact waitStep_inv h (by simp [hf]) (by simp [hf])
      (settleThen_inv (enter_inv h (by simp [hf]) (by decide) (by simp [SettleTarget.state])
        (by simp [hf, SettleTarget.state])))
      (finish_inv _ h)
  | syncSettle => exact settleStep_inv h hf
  | syncCheck =>
    cases line with
    | true => exact enter_hdrWait_inv_of_syncCheck h hf
    | false => exact finish_inv _ h
  | hdrWait =>
    exact waitStep_inv h (by simp [hf]) (by simp [hf])
      (settleThen_inv (enter_inv h (by simp [hf]) (by decide) (by simp [SettleTarget.state])
        (by simp [hf, SettleTarget.state])))
      (finish_inv _ h)
  | hdrSettle => exact settleStep_inv h hf
  | hdrCheck =>
    cases line with
    | true => exact confirmHeaderEdge_inv h hf
    | false => exact finish_inv _ h
  | bitSettle => exact settleStep_inv h hf
  | bitSample =>
    exact enter_inv (f := .bitWait) h (by simp [hf]) (by decide) (by simp) (by simp [hf])
  | bitWait =>
    exact waitStep_inv h (by simp [hf]) (by simp [hf]) (columnEnd_inv h hf false) (dataTimeout_inv h)
  | unused k => exact finish_inv _ h

theorem edgeRegs_inv (h : r.Inv p) (w : InputWord) : (edgeRegs p w r).Inv p := by
  cases hr : w.rst with
  | true => rw [edgeRegs_of_rst hr]; exact reset_inv p
  | false => rw [edgeRegs_of_not_rst hr]; exact edgeOp_inv (clearDone_inv h) rfl w.start w.line

/-- R38 items 1 to 5 as a step lemma. -/
theorem step_inv {s t : State} (h : s.Inv) (hst : step s = .next t) : t.Inv := by
  rw [(step_next_iff s t).mp hst]
  exact edgeRegs_inv h s.inputWord

end Sys2Proof.Machine
end

section
/-! PROOF. The parities and bytes of a list of sampled bits (R38 items 6 and 7), and how one more bit changes them. -/

namespace Sys2Proof.Machine

/-! ## Parities of a range -/

theorem parity_map_range_succ (f : Nat → Bool) (n : Nat) :
    parity ((List.range (n + 1)).map f) = (parity ((List.range n).map f) ^^ f n) := by
  simp [parity, List.range_succ]

theorem parity_map_range_xor (f g : Nat → Bool) (n : Nat) :
    parity ((List.range n).map fun i => f i ^^ g i) =
      (parity ((List.range n).map f) ^^ parity ((List.range n).map g)) := by
  induction n with
  | zero => rfl
  | succ n ih =>
    simp only [parity_map_range_succ, ih, Bool.xor_assoc, Bool.xor_left_comm (f n)]

/-- At most one place of a range differs from 0. -/
theorem parity_map_range_single (k n : Nat) (b : Bool) :
    parity ((List.range n).map fun i => decide (i = k) && b) = (decide (k < n) && b) := by
  induction n with
  | zero => simp [parity]
  | succ n ih =>
    rw [parity_map_range_succ, ih]
    rcases lt_trichotomy k n with h | rfl | h
    · simp [h, h.ne', Nat.lt_succ_of_lt h]
    · simp
    · simp [h.ne, h.not_gt, show ¬ k < n + 1 by omega]

/-! ## One place of the matrix changed

Place `n` is bit (n / 5, n % 5) (R178). -/

variable {bits bits' : List Bool} {n : Nat} {b : Bool}

theorem rowSum_of_bitAt_xor
    (h : ∀ r c, bitAt bits' r c = (bitAt bits r c ^^ (decide (5 * r + c = n) && b))) (r : Nat) :
    rowSum bits' r = (rowSum bits r ^^ (decide (r = n / 5) && b)) := by
  have hplace : ∀ c ∈ List.range 5, (decide (5 * r + c = n) && b) =
      (decide (c = n % 5) && (decide (r = n / 5) && b)) := by
    intro c hc
    have hc5 : c < 5 := List.mem_range.mp hc
    have hiff : 5 * r + c = n ↔ c = n % 5 ∧ r = n / 5 := by omega
    simp [hiff, Bool.decide_and, Bool.and_assoc]
  have hmod : n % 5 < 5 := Nat.mod_lt n (by decide)
  calc rowSum bits' r
      = parity ((List.range 5).map fun c => bitAt bits r c ^^ (decide (5 * r + c = n) && b)) := by
        rw [rowSum, funext (h r)]
    _ = (rowSum bits r ^^ parity ((List.range 5).map fun c => decide (5 * r + c = n) && b)) :=
        parity_map_range_xor _ _ 5
    _ = (rowSum bits r ^^ (decide (r = n / 5) && b)) := by
        rw [List.map_congr_left hplace, parity_map_range_single, decide_eq_true hmod, Bool.true_and]

theorem colSum_of_bitAt_xor
    (h : ∀ r c, bitAt bits' r c = (bitAt bits r c ^^ (decide (5 * r + c = n) && b)))
    (hn : n < 55) {c : Nat} (hc : c < 5) :
    colSum bits' c = (colSum bits c ^^ (decide (c = n % 5) && b)) := by
  have hplace : ∀ r ∈ List.range 11, (decide (5 * r + c = n) && b) =
      (decide (r = n / 5) && (decide (c = n % 5) && b)) := by
    intro r _
    have hiff : 5 * r + c = n ↔ r = n / 5 ∧ c = n % 5 := by omega
    simp [hiff, Bool.decide_and, Bool.and_assoc]
  have hdiv : n / 5 < 11 := by omega
  calc colSum bits' c
      = parity ((List.range 11).map fun r => bitAt bits r c ^^ (decide (5 * r + c = n) && b)) := by
        simp only [colSum, h]
    _ = (colSum bits c ^^ parity ((List.range 11).map fun r => decide (5 * r + c = n) && b)) :=
        parity_map_range_xor _ _ 11
    _ = (colSum bits c ^^ (decide (c = n % 5) && b)) := by
        rw [List.map_congr_left hplace, parity_map_range_single, decide_eq_true hdiv, Bool.true_and]

/-! ## One more bit sampled -/

theorem bitAt_append (bits : List Bool) (b : Bool) (r c : Nat) :
    bitAt (bits ++ [b]) r c = (bitAt bits r c ^^ (decide (5 * r + c = bits.length) && b)) := by
  unfold bitAt
  rcases lt_trichotomy (5 * r + c) bits.length with h | h | h
  · rw [List.getD_append _ _ _ _ h]
    simp [h.ne]
  · simp [h]
  · rw [List.getD_eq_default _ _ h.le, List.getD_eq_default _ _ (by simpa using h)]
    simp [h.ne']

theorem bitAt_append_length (bits : List Bool) (b : Bool) {r c : Nat} (h : bits.length = 5 * r + c) :
    bitAt (bits ++ [b]) r c = b := by
  rw [bitAt, ← h]
  simp

theorem rowSum_append (bits : List Bool) (b : Bool) (r : Nat) :
    rowSum (bits ++ [b]) r = (rowSum bits r ^^ (decide (r = bits.length / 5) && b)) :=
  rowSum_of_bitAt_xor (bitAt_append bits b) r

theorem colSum_append (bits : List Bool) (b : Bool) (hn : bits.length < 55) {c : Nat} (hc : c < 5) :
    colSum (bits ++ [b]) c = (colSum bits c ^^ (decide (c = bits.length % 5) && b)) :=
  colSum_of_bitAt_xor (bitAt_append bits b) hn hc

/-- A row none of whose bits is sampled yet. -/
theorem rowSum_eq_false_of_length_le (h : bits.length ≤ 5 * n) : rowSum bits n = false := by
  have hzero : ∀ c ∈ List.range 5, bitAt bits n c = false := fun c _ =>
    List.getD_eq_default _ _ (by omega)
  rw [rowSum, List.map_congr_left hzero]
  rfl

theorem byteOf_append (bits : List Bool) (b : Bool) (j : Nat) :
    byteOf (bits ++ [b]) j =
      if goesToByte j bits.length then BitVec.ofNat 8 (2 * (byteOf bits j).toNat + b.toNat)
      else byteOf bits j := by
  have hold : ((List.range bits.length).filter (goesToByte j)).map (fun n => (bits ++ [b]).getD n false) =
      ((List.range bits.length).filter (goesToByte j)).map fun n => bits.getD n false := by
    refine List.map_congr_left fun n hn => ?_
    have hlt : n < bits.length := List.mem_range.mp (List.mem_filter.mp hn).1
    exact List.getD_append _ _ _ _ hlt
  unfold byteOf
  rw [List.length_append, List.length_singleton, List.range_succ, List.filter_append, List.map_append, hold]
  by_cases hj : goesToByte j bits.length = true <;> simp [hj]

theorem rowSum_nil (r : Nat) : rowSum [] r = false := rowSum_eq_false_of_length_le (Nat.zero_le _)

theorem colSum_nil (c : Nat) : colSum [] c = false := by
  have hzero : ∀ r ∈ List.range 11, bitAt [] r c = false := fun _ _ => rfl
  rw [colSum, List.map_congr_left hzero]
  rfl

theorem byteOf_nil (j : Nat) : byteOf [] j = 0 := rfl

end Sys2Proof.Machine
end

section
/-! PROOF. Every edge keeps R38 items 6 and 7, so that what is sampled beside the state is what the accumulators and the
identifier buffer hold. -/

namespace Sys2Proof.Machine

variable {p : Params} {r : Regs} {bits : List Bool}

/-! ## The shared operations -/

theorem reset_captured : Regs.reset.Captured [] := by
  simp [Regs.Captured, rowSum_nil, colSum_nil, byteOf_nil]

theorem beginDecode_captured (r : Regs) : (beginDecode r).Captured [] := by
  simp [Regs.Captured, rowSum_nil, colSum_nil, byteOf_nil]

theorem clearDone_captured (h : r.Captured bits) : (clearDone r).Captured bits := h

theorem finish_captured (code : ResultCode) (h : r.Captured bits) : (finish code r).Captured bits := by
  obtain ⟨-, -, -, -, hrow, hcol, hbuf⟩ := h
  exact ⟨by simp, by simp, by simp, by simp, hrow, hcol, hbuf⟩

/-- Between two bits: the next state lies in the same part of the decode, or in the header after the carrier. -/
theorem enter_captured {f : FsmState} (h : r.Captured bits) (hr : r.state ≠ .bitWait) (hf : f ≠ .bitWait)
    (hpre : f.isCarrier = true ∨ f.isHeader = true → r.state.isCarrier = true ∨ r.state.isHeader = true)
    (hbit : f.isBit = true → r.state.isBit = true) : (enter f r).Captured bits := by
  obtain ⟨hnil, hlen, -, hrows, hrest⟩ := h
  refine ⟨fun hi => hnil (hpre hi), fun hi => ?_, fun hi => absurd hi hf, fun hi => hrows (hbit hi), hrest⟩
  simpa [hr, hf] using hlen (hbit hi)

theorem settleThen_captured {x : SettleTarget} (h : (enter x.state r).Captured bits) :
    (settleThen p x r).Captured bits := by
  obtain ⟨-, -, -, hk1, hk2, hk3, -, hne⟩ := x.settleState_kinds
  obtain ⟨-, -, -, -, hne'⟩ := x.state_kinds
  rcases settleThen_cases p x r with ⟨-, e⟩ | ⟨-, e⟩ <;> rw [e]
  · exact h
  · exact enter_captured (r := enter x.state r) h hne' hne (by simp [hk1, hk2]) (by simp [hk3])

theorem settleStep_captured {x : SettleTarget} (h : r.Captured bits) (hx : r.state = x.settleState) :
    (settleStep p x r).Captured bits := by
  obtain ⟨-, -, -, hk1, hk2, hk3, -, hne⟩ := x.settleState_kinds
  obtain ⟨-, -, -, -, hne'⟩ := x.state_kinds
  rcases settleStep_cases p x r with ⟨-, e⟩ | ⟨-, e⟩ <;> rw [e]
  · exact enter_captured h (hx ▸ hne) hne' (by simp [hx, hk1, hk2]) (by simp [hx, hk3])
  · exact h

theorem waitStep_captured {level line : Bool} {onEdge onTimeout : Regs → Regs} (h : r.Captured bits)
    (he : (onEdge r).Captured bits) (ht : (onTimeout r).Captured bits) :
    (waitStep p level line onEdge onTimeout r).Captured bits := by
  rcases waitStep_cases p level line onEdge onTimeout r with ⟨-, e⟩ | ⟨-, -, e⟩ | ⟨-, -, e⟩ <;> rw [e]
  · exact he
  · exact ht
  · exact h

/-! ## The header -/

/-- The header ends with no bit sampled, as the first sample wants it. -/
theorem enter_bitSample_captured_of_header (h : r.Captured bits) (hf : r.state.isHeader = true)
    (hzero : r.row = 0 ∧ r.col = 0) : (enter .bitSample r).Captured bits := by
  obtain ⟨hnil, -, -, -, hrest⟩ := h
  obtain rfl := hnil (.inr hf)
  obtain ⟨hrow, hcol⟩ := hzero
  exact ⟨by simp, by simp [hrow, hcol], by simp, by simp [hrow], hrest⟩

theorem confirmHeaderEdge_captured (h : r.Captured bits) (hi : r.Inv p) (hf : r.state = .hdrCheck) :
    (confirmHeaderEdge p r).Captured bits := by
  have hheader : r.state.isHeader = true := by simp [hf]
  rcases confirmHeaderEdge_cases p r with ⟨-, e⟩ | ⟨-, e⟩ <;> rw [e]
  · exact settleThen_captured (enter_bitSample_captured_of_header (r := { r with hdr := r.hdr + 1 }) h hheader
      (hi.row_col_eq_zero (.inr hheader)))
  · exact enter_captured (r := { r with hdr := r.hdr + 1 }) h (by simp [hf]) (by decide) (by simp [hf]) (by simp)

/-! ## The sample -/

theorem goesToByte_index {row col : Nat} (hc : col ≤ 4) (j : Nat) :
    goesToByte j (5 * row + col) = true ↔ row ≤ 9 ∧ col ≤ 3 ∧ row / 2 = j := by
  have hdiv : (5 * row + col) / 5 = row := by omega
  have hmod : (5 * row + col) % 5 = col := by omega
  rw [goesToByte, hdiv, hmod, decide_eq_true_iff]
  omega

/-- BIT_SAMPLE folds the bit into the accumulators and the buffer as the list of bits grows by it (R171 to R174). -/
theorem sampleBit_captured (h : r.Captured bits) (hi : r.Inv p) (hf : r.state = .bitSample) (b : Bool) :
    (sampleBit b r).Captured (bits ++ [b]) := by
  obtain ⟨-, hlen, -, hrows, hrowpar, hcolpar, hbuf⟩ := h
  have hrow := hi.row_le
  have hcol := hi.col_le
  have hn : bits.length = 5 * r.row.toNat + r.col.toNat := by simpa [hf] using hlen
  have hdiv : bits.length / 5 = r.row.toNat := by omega
  have hmod : bits.length % 5 = r.col.toNat := by omega
  refine ⟨by simp [sampleBit], fun _ => ?_, fun _ => ?_, fun _ k hk => ?_, ?_, fun c => ?_, fun j => ?_⟩
  · simp [sampleBit, hn]
  · exact (bitAt_append_length bits b hn).symm
  · have hk' : k < r.row.toNat := hk
    rw [rowSum_append, hrows (by simp [hf]) k hk', hdiv, decide_eq_false hk'.ne]
    rfl
  · change (r.rowpar ^^ b) = rowSum (bits ++ [b]) r.row.toNat
    rw [rowSum_append, hdiv, hrowpar, decide_eq_true rfl, Bool.true_and]
  · change (colparAfter b r)[c] = colSum (bits ++ [b]) c
    rw [getElem_colparAfter, colSum_append bits b (by omega) c.isLt, hmod, hcolpar c]
    by_cases hc : r.col.toNat = c.val
    · simp [hc]
    · simp [hc, Ne.symm hc]
  · change (idbufAfter b r)[j] = byteOf (bits ++ [b]) j
    rw [getElem_idbufAfter, byteOf_append, hn, hbuf j]
    simp only [goesToByte_index hcol]

/-! ## The ends of columns and rows -/

theorem nextColumn_captured (h : r.Captured bits) (hf : r.state = .bitWait) (hcol : r.col.toNat ≤ 3) :
    (enter .bitSample { r with col := r.col + 1 }).Captured bits := by
  obtain ⟨-, hlen, -, hrows, hrest⟩ := h
  have hinc : (r.col + 1).toNat = r.col.toNat + 1 := toNat_add_one_of_lt (by omega)
  have hn : bits.length = 5 * r.row.toNat + r.col.toNat + 1 := by simpa [hf] using hlen
  refine ⟨by simp, fun _ => ?_, by simp, fun _ => hrows (by simp [hf]), hrest⟩
  change bits.length = 5 * r.row.toNat + (r.col + 1).toNat + 0
  rw [hinc]
  omega

/-- A row whose check passes is one more row of even parity, and the next one has no bit yet (R200). -/
theorem nextRow_captured (h : r.Captured bits) (hf : r.state = .bitWait) (hrow : r.row.toNat ≤ 9)
    (hcol : r.col.toNat = 4) (heven : r.rowpar = false) :
    (enter .bitSample { r with row := r.row + 1, col := 0, rowpar := false }).Captured bits := by
  obtain ⟨-, hlen, -, hrows, hrowpar, hrest⟩ := h
  have hinc : (r.row + 1).toNat = r.row.toNat + 1 := toNat_add_one_of_lt (by omega)
  have hn : bits.length = 5 * (r.row.toNat + 1) := by
    simp only [hf, FsmState.bitWait_kinds, if_true, forall_const] at hlen
    omega
  refine ⟨by simp, fun _ => ?_, by simp, fun _ k hk => ?_, ?_, hrest⟩
  · change bits.length = 5 * (r.row + 1).toNat + 0 + 0
    rw [hinc]
    omega
  · have hk' : k < r.row.toNat + 1 := hinc ▸ hk
    rcases Nat.lt_succ_iff_lt_or_eq.mp hk' with hlt | rfl
    · exact hrows (by simp [hf]) k hlt
    · rw [← hrowpar, heven]
  · change false = rowSum bits (r.row + 1).toNat
    rw [hinc, rowSum_eq_false_of_length_le hn.le]

theorem columnEnd_captured (h : r.Captured bits) (hi : r.Inv p) (hf : r.state = .bitWait) :
    (columnEnd p false r).Captured bits := by
  have hcol := hi.col_le
  rcases columnEnd_cases p false r with ⟨-, hcol3, e⟩ | ⟨hend, hrow, e⟩ | ⟨-, -, e⟩ <;> rw [e]
  · exact settleThen_captured (nextColumn_captured h hf hcol3)
  · have hcol4 : r.col.toNat = 4 := by simp at hend; omega
    rcases rowEnd_cases p false r with ⟨-, e'⟩ | ⟨heven, -, -, e'⟩ <;> rw [e']
    · exact finish_captured _ h
    · exact settleThen_captured (nextRow_captured h hf hrow hcol4 heven)
  · obtain ⟨code, e'⟩ := finalCheck_eq_finish false r
    rw [e']
    exact finish_captured code h

theorem dataTimeout_captured (h : r.Captured bits) : (dataTimeout p r).Captured bits := by
  obtain ⟨code, e⟩ := dataTimeout_eq_finish p r
  rw [e]
  exact finish_captured code h

/-! ## Every edge -/

/-- The bits after an edge with `rst = 0`, by the state it starts in. -/
theorem bitsAfter_of_not_rst {s : State} (hr : s.inputWord.rst = false) (bits : List Bool) :
    s.bitsAfter bits =
      if s.regs.state = .idle ∧ s.inputWord.start = true then []
      else if s.regs.state = .bitSample then bits ++ [s.inputWord.line]
      else bits := by
  unfold State.bitsAfter
  cases hf : s.regs.state <;> simp [hr]

theorem edgeOp_captured (h : r.Captured bits) (hi : r.Inv p) (start line : Bool) :
    (edgeOp p start line r.state r).Captured
      (if r.state = .idle ∧ start = true then []
       else if r.state = .bitSample then bits ++ [line]
       else bits) := by
  cases hf : r.state with
  | idle =>
    cases start with
    | true => exact beginDecode_captured r
    | false => exact h
  | idleWait =>
    exact waitStep_captured h
      (settleThen_captured (enter_captured h (by simp [hf]) (by decide) (by simp [hf]) (by simp [SettleTarget.state])))
      (finish_captured _ h)
  | syncSettle => exact settleStep_captured h hf
  | syncCheck =>
    cases line with
    | true => exact enter_captured h (by simp [hf]) (by decide) (by simp [hf]) (by simp)
    | false => exact finish_captured _ h
  | hdrWait =>
    exact waitStep_captured h
      (settleThen_captured (enter_captured h (by simp [hf]) (by decide) (by simp [hf]) (by simp [SettleTarget.state])))
      (finish_captured _ h)
  | hdrSettle => exact settleStep_captured h hf
  | hdrCheck =>
    cases line with
    | true => exact confirmHeaderEdge_captured h hi hf
    | false => exact finish_captured _ h
  | bitSettle => exact settleStep_captured h hf
  | bitSample => exact sampleBit_captured h hi hf line
  | bitWait => exact waitStep_captured h (columnEnd_captured h hi hf) (dataTimeout_captured h)
  | unused k => exact finish_captured _ h

/-- R38 items 6 and 7 as a step lemma. -/
theorem step_captured {s t : State} (hi : s.Inv) (h : s.regs.Captured bits) (hst : step s = .next t) :
    t.regs.Captured (s.bitsAfter bits) := by
  rw [(step_next_iff s t).mp hst, setRegs_regs]
  cases hr : s.inputWord.rst with
  | true =>
    rw [edgeRegs_of_rst hr, State.bitsAfter, if_pos hr]
    exact reset_captured
  | false =>
    rw [edgeRegs_of_not_rst hr, bitsAfter_of_not_rst hr]
    exact edgeOp_captured (clearDone_captured h) (clearDone_inv hi) s.inputWord.start s.inputWord.line

end Sys2Proof.Machine
end

section
/-! PROOF. Both invariants hold in every reachable state, which is R38. -/

namespace Sys2Proof.Machine

theorem Reached.inv_and_captured {s : State} {bits : List Bool} (h : Reached s bits) :
    s.Inv ∧ s.regs.Captured bits := by
  induction h with
  | reset s hs =>
    rw [State.Inv, hs]
    exact ⟨reset_inv s.params, reset_captured⟩
  | edge s t bits _ hst ih => exact ⟨step_inv ih.1 hst, step_captured ih.1 ih.2 hst⟩

/-- The states of R38 item 2 in which the counter rests are neither waits nor settle states. -/
theorem isWait_and_isSettle_of_resting {f : FsmState} (h : f ∈ [FsmState.idle, .syncCheck, .hdrCheck, .bitSample]) :
    f.isWait = false ∧ f.isSettle = false := by
  revert f
  simp

end Sys2Proof.Machine

open Sys2Proof Sys2Proof.Machine

/-- Settles O47: R38 items 1 to 5 are `State.Inv` and items 6 and 7 are `Regs.Captured`, and every edge keeps the two
together, by induction on the run from reset. -/
theorem reachedStatesMeetEveryItem : Obligations.ReachedStatesMeetEveryItem := by
  intro s bits h
  obtain ⟨⟨hu, hwait, hsettle, hrest, hhdr, -, hheader, hbit, hrow, hcol, hzero, hbusy⟩,
    -, -, -, -, hrowpar, hcolpar, hbuf⟩ := h.inv_and_captured
  exact ⟨FsmState.code_le_nine hu, hwait, hsettle,
    fun hf => hrest (isWait_and_isSettle_of_resting hf).1 (isWait_and_isSettle_of_resting hf).2,
    hhdr, hheader, hbit, hrow, hcol, hzero, hbusy, fun _ => ⟨hrowpar, hcolpar⟩, hbuf⟩

end

section
/-! PROOF. How the buffer is packed into the identifier (R53), and where each data bit of a whole frame lands in its
byte. -/

namespace Sys2Proof.Machine

/-! ## The bytes of the identifier -/

/-- A byte is found by dropping the bytes packed below it. -/
theorem extractLsb'_identifier (r : Regs) (j : Fin 5) : r.identifier.extractLsb' (32 - 8 * j.val) 8 = r.idbuf[j] := by
  unfold Regs.identifier
  match j with
  | 0 =>
    iterate 3 rw [BitVec.extractLsb'_append_eq_of_le (by decide)]
    exact BitVec.extractLsb'_append_eq_left
  | 1 =>
    iterate 3 rw [BitVec.extractLsb'_append_eq_of_le (by decide)]
    exact BitVec.extractLsb'_append_eq_right
  | 2 =>
    iterate 2 rw [BitVec.extractLsb'_append_eq_of_le (by decide)]
    exact BitVec.extractLsb'_append_eq_right
  | 3 =>
    rw [BitVec.extractLsb'_append_eq_of_le (by decide)]
    exact BitVec.extractLsb'_append_eq_right
  | 4 => exact BitVec.extractLsb'_append_eq_right

/-- Bit `7 - k` of byte `j` is bit `39 - (8j + k)` of the identifier. -/
theorem getLsbD_identifier (r : Regs) (j : Fin 5) {k : Nat} (hk : k < 8) :
    r.identifier.getLsbD (39 - (8 * j.val + k)) = r.idbuf[j].getLsbD (7 - k) := by
  have hplace : 39 - (8 * j.val + k) = 32 - 8 * j.val + (7 - k) := by omega
  rw [← extractLsb'_identifier, BitVec.getLsbD_extractLsb', hplace, decide_eq_true (by omega), Bool.true_and]

theorem idOut_of_ok {r : Regs} (h : r.result = .ok) : r.idOut = r.identifier := if_pos h

/-! ## The bits of a byte -/

theorem getLsbD_shiftIn_zero (v : Byte) (b : Bool) : (shiftIn v b).getLsbD 0 = b := by
  simp [shiftIn]

theorem getLsbD_shiftIn_succ (v : Byte) (b : Bool) {i : Nat} (hi : i + 1 < 8) :
    (shiftIn v b).getLsbD (i + 1) = v.getLsbD i := by
  have hi' : i < 8 := by omega
  simp [shiftIn, hi, hi']

/-- Bits shifted in one after another stand in a byte with the last one at bit 0 (R52). -/
theorem getLsbD_foldl_shiftIn (l : List Bool) {i : Nat} (hi : i < 8) :
    (l.foldl shiftIn 0).getLsbD i = l.reverse.getD i false := by
  induction l using List.reverseRecOn generalizing i with
  | nil => simp
  | append_singleton l b ih =>
    rw [List.foldl_append, List.reverse_append]
    cases i with
    | zero => exact getLsbD_shiftIn_zero _ b
    | succ i => exact (getLsbD_shiftIn_succ _ b hi).trans (ih (by omega))

/-- The eight places of a whole frame that go to byte `j`: columns 0 to 3 of row `2j`, then of row `2j + 1` (R51). -/
theorem filter_goesToByte (j : Fin 5) :
    (List.range 55).filter (goesToByte j) = (List.range 8).map fun k => 5 * (2 * j.val + k / 4) + k % 4 := by
  revert j
  decide

theorem byteOf_eq_foldl_shiftIn {bits : List Bool} (h : bits.length = 55) (j : Fin 5) :
    byteOf bits j = ((List.range 8).map fun k => bitAt bits (2 * j.val + k / 4) (k % 4)).foldl shiftIn 0 := by
  have hshift : shiftIn = fun v b => BitVec.ofNat 8 (2 * v.toNat + b.toNat) := funext₂ shiftIn_eq
  rw [byteOf, h, filter_goesToByte, List.map_map, hshift]
  rfl

/-- Row `2j` fills the high nibble of byte `j` and row `2j + 1` the low one, column 0 first (R52, R180). -/
theorem getLsbD_byteOf {bits : List Bool} (h : bits.length = 55) (j : Fin 5) {k : Nat} (hk : k < 8) :
    (byteOf bits j).getLsbD (7 - k) = bitAt bits (2 * j.val + k / 4) (k % 4) := by
  have hback : 8 - 1 - (7 - k) = k := by omega
  rw [byteOf_eq_foldl_shiftIn h, getLsbD_foldl_shiftIn _ (by omega), List.getD_eq_getElem _ _ (by simp; omega)]
  simp [hback]

theorem getLsbD_idbuf_of_captured {r : Regs} {bits : List Bool} (h : r.Captured bits) (hlen : bits.length = 55)
    (j : Fin 5) {k : Nat} (hk : k < 8) :
    r.idbuf[j].getLsbD (7 - k) = bitAt bits (2 * j.val + k / 4) (k % 4) := by
  obtain ⟨-, -, -, -, -, -, hbuf⟩ := h
  rw [hbuf j, getLsbD_byteOf hlen j hk]

/-- Data bit (row, col) is bit `4 * (row % 2) + col`, counted from the top, of byte `row / 2`. -/
theorem getLsbD_identifier_of_captured {r : Regs} {bits : List Bool} (h : r.Captured bits) (hlen : bits.length = 55)
    {row col : Nat} (hrow : row < 10) (hcol : col < 4) :
    r.identifier.getLsbD (39 - (4 * row + col)) = bitAt bits row col := by
  obtain ⟨j, hj⟩ : ∃ j : Fin 5, j.val = row / 2 := ⟨⟨row / 2, by omega⟩, rfl⟩
  have hk : 4 * (row % 2) + col < 8 := by omega
  have hplace : 4 * row + col = 8 * j.val + (4 * (row % 2) + col) := by omega
  have hrow' : 2 * j.val + (4 * (row % 2) + col) / 4 = row := by omega
  have hcol' : (4 * (row % 2) + col) % 4 = col := by omega
  rw [hplace, getLsbD_identifier r j hk, getLsbD_idbuf_of_captured h hlen j hk, hrow', hcol']

end Sys2Proof.Machine

open Sys2Proof Sys2Proof.Machine

/-- Settles O49: the packing of R53 byte by byte, and the place of a data bit through the byte that holds it. -/
theorem frameBitsLandInTheIdentifier : Obligations.FrameBitsLandInTheIdentifier :=
  ⟨extractLsb'_identifier, fun _ => idOut_of_ok, fun _ _ h hlen _ hrow _ hcol =>
    getLsbD_identifier_of_captured h hlen hrow hcol⟩

end

section
/-! PROOF. The frame matrix of an identifier (R85): its bits in order of row and column, and its even rows and
columns. -/

namespace Sys2Proof.Machine

/-! ## A matrix row by row -/

theorem length_flatten_map_range (f : Nat → Nat → Bool) (m n : Nat) :
    ((List.range m).map fun r => (List.range n).map (f r)).flatten.length = n * m := by
  simp [List.length_flatten, Function.comp_def, Nat.mul_comm]

/-- Entry (r, c) of a matrix with rows of `n` entries has index `n * r + c` when the rows stand one after another. -/
theorem getD_flatten_map_range (f : Nat → Nat → Bool) {m n r c : Nat} (hr : r < m) (hc : c < n) :
    ((List.range m).map fun r => (List.range n).map (f r)).flatten.getD (n * r + c) false = f r c := by
  induction m with
  | zero => omega
  | succ m ih =>
    have hlen := length_flatten_map_range f m n
    rw [List.range_succ, List.map_append, List.flatten_append]
    rcases Nat.lt_succ_iff_lt_or_eq.mp hr with hlt | rfl
    · have hbefore : n * r + c < n * m := by
        calc n * r + c < n * (r + 1) := by rw [Nat.mul_succ]; omega
          _ ≤ n * m := Nat.mul_le_mul_left n hlt
      rw [List.getD_append _ _ _ _ (by rw [hlen]; exact hbefore), ih hlt]
    · rw [List.getD_append_right _ _ _ _ (by rw [hlen]; omega), hlen]
      simp [hc]

theorem length_flatten_frameRows (x : Identifier) : (frameRows x).flatten.length = 55 :=
  length_flatten_map_range (frameBit x) 11 5

theorem bitAt_flatten_frameRows (x : Identifier) {r c : Nat} (hr : r < 11) (hc : c < 5) :
    bitAt (frameRows x).flatten r c = frameBit x r c :=
  getD_flatten_map_range (frameBit x) hr hc

/-! ## The three kinds of bits -/

theorem frameBit_eq_dataBit (x : Identifier) {r c : Nat} (hr : r < 10) (hc : c < 4) :
    frameBit x r c = dataBit x r c :=
  (if_pos hr).trans (if_pos hc)

theorem frameBit_row_parity (x : Identifier) {r : Nat} (hr : r < 10) :
    frameBit x r 4 = parity ((List.range 4).map (frameBit x r)) := by
  have hdata : ∀ c ∈ List.range 4, frameBit x r c = dataBit x r c := fun c hc =>
    frameBit_eq_dataBit x hr (List.mem_range.mp hc)
  rw [List.map_congr_left hdata]
  exact (if_pos hr).trans (if_neg (by decide))

theorem frameBit_column_parity (x : Identifier) {c : Nat} (hc : c < 4) :
    frameBit x 10 c = parity ((List.range 10).map fun r => frameBit x r c) := by
  have hdata : ∀ r ∈ List.range 10, frameBit x r c = dataBit x r c := fun r hr =>
    frameBit_eq_dataBit x (List.mem_range.mp hr) hc
  rw [List.map_congr_left hdata]
  exact (if_neg (by decide)).trans (if_pos hc)

theorem parity_map_range_four (f : Nat → Bool) : parity ((List.range 4).map f) = (f 0 ^^ f 1 ^^ f 2 ^^ f 3) := by
  simp [parity, show List.range 4 = [0, 1, 2, 3] from rfl]

/-! ## Even rows and columns: the last bit is the parity of those before it -/

theorem rowSum_flatten_frameRows (x : Identifier) {r : Nat} (hr : r < 10) :
    rowSum (frameRows x).flatten r = false := by
  have hbits : ∀ c ∈ List.range 5, bitAt (frameRows x).flatten r c = frameBit x r c := fun c hc =>
    bitAt_flatten_frameRows x (by omega) (List.mem_range.mp hc)
  rw [rowSum, List.map_congr_left hbits, parity_map_range_succ, frameBit_row_parity x hr, Bool.xor_self]

theorem colSum_flatten_frameRows (x : Identifier) {c : Nat} (hc : c < 4) :
    colSum (frameRows x).flatten c = false := by
  have hbits : ∀ r ∈ List.range 11, bitAt (frameRows x).flatten r c = frameBit x r c := fun r hr =>
    bitAt_flatten_frameRows x (List.mem_range.mp hr) (by omega)
  rw [colSum, List.map_congr_left hbits, parity_map_range_succ, frameBit_column_parity x hc, Bool.xor_self]

end Sys2Proof.Machine

open Sys2Proof Sys2Proof.Machine

/-- Settles O52: the three kinds of bits from the definition of R85, and the even rows and columns from the place of
each bit in the list. -/
theorem frameMatrixIsParityClean : Obligations.FrameMatrixIsParityClean := fun x =>
  ⟨fun _ hr _ hc => frameBit_eq_dataBit x hr hc,
    fun _ hr => (frameBit_row_parity x hr).trans (parity_map_range_four _),
    rfl,
    fun _ hr => rowSum_flatten_frameRows x hr,
    fun _ hc => colSum_flatten_frameRows x hc,
    fun _ hr _ hc => bitAt_flatten_frameRows x hr hc,
    length_flatten_frameRows x⟩

end

section
/-! PROOF. How one edge is decoded (R86): the bits of the input word, the state code each code names, and what the
unused codes do. -/

namespace Sys2Proof

/-! ## The input word (R74) -/

@[simp] theorem InputWord.rst_ofBits (rst start line : Bool) : (InputWord.ofBits rst start line).rst = rst := by
  revert rst start line
  decide

@[simp] theorem InputWord.start_ofBits (rst start line : Bool) : (InputWord.ofBits rst start line).start = start := by
  revert rst start line
  decide

@[simp] theorem InputWord.line_ofBits (rst start line : Bool) : (InputWord.ofBits rst start line).line = line := by
  revert rst start line
  decide

/-! ## The three priorities (R86) -/

theorem decodeEdge_reset (start line : Bool) (code : StateCode) :
    decodeEdge (InputWord.ofBits true start line) code = .reset start line := by
  simp [decodeEdge]

theorem decodeEdge_start (line : Bool) : decodeEdge (InputWord.ofBits false true line) 0 = .start line := by
  simp [decodeEdge]

theorem decodeEdge_of_not_start {start : Bool} {code : StateCode} (h : ¬ (code = 0 ∧ start = true)) (line : Bool) :
    decodeEdge (InputWord.ofBits false start line) code = decodeState code line := by
  rw [decodeEdge, InputWord.rst_ofBits, InputWord.start_ofBits, InputWord.line_ofBits, if_neg Bool.false_ne_true,
    if_neg h]

/-! ## The state codes (R78, R79) -/

/-- Every one of the sixteen codes is the code of a state. -/
theorem code_ofCode (code : StateCode) : (FsmState.ofCode code).code = code := by
  revert code
  decide

theorem exists_unused_of_ten_le {code : StateCode} (h : 10 ≤ code.toNat) :
    ∃ k, code = (FsmState.unused k).code := by
  have hcode := code_ofCode code
  cases hf : FsmState.ofCode code with
  | unused k => exact ⟨k, by rw [← hf, hcode]⟩
  | _ =>
    have hle := FsmState.code_le_nine (f := FsmState.ofCode code) (by rw [hf]; rfl)
    rw [hcode] at hle
    omega

end Sys2Proof

namespace Sys2Proof.Machine

/-- The unused codes perform `finish(NONE)` whatever state the registers are in (R109). -/
theorem exec_decodeState_of_ten_le {code : StateCode} (h : 10 ≤ code.toNat) (line : Bool) (s : State) :
    exec (decodeState code line) s = .next (s.tickWith (finish .none)) := by
  obtain ⟨k, rfl⟩ := exists_unused_of_ten_le h
  rw [decodeState, ofCode_code]
  dsimp only
  split <;> rfl

end Sys2Proof.Machine

open Sys2Proof Sys2Proof.Machine

/-- Settles O20: R86's priorities one by one; under the third, a walk over the states whose codes these are. -/
theorem edgeIsDecodedInPriorityOrder : Obligations.EdgeIsDecodedInPriorityOrder := by
  refine ⟨decodeEdge_reset, decodeEdge_start, fun start line code h => ?_, fun code line s h => ?_⟩
  · rw [decodeEdge_of_not_start h]
    obtain ⟨f, rfl⟩ : ∃ f : FsmState, f.code = code := ⟨_, code_ofCode code⟩
    rw [decodeState, ofCode_code]
    cases f with
    | unused k => fin_cases k <;> rfl
    | _ => rfl
  · rw [decodeEdge_of_not_start (by simp), exec_decodeState_of_ten_le h]
    rfl

end

section
/-! PROOF. When `done` rises (R101, R104): an operation of a busy state either keeps the block busy with `done` low or
ends in `finish`, one lemma for each shared operation. -/

namespace Sys2Proof.Machine

variable {p : Params} {r : Regs}

/-- What every operation of a busy state leaves, `done` being cleared before it runs (R101). -/
def Regs.DoneIffIdle (r : Regs) : Prop := r.done = true ↔ r.state = .idle

theorem doneIffIdle_of_busy (hd : r.done = false) (hf : r.state ≠ .idle) : r.DoneIffIdle := by
  simp [Regs.DoneIffIdle, hd, hf]

theorem finish_doneIffIdle (code : ResultCode) (r : Regs) : (finish code r).DoneIffIdle := by
  simp [Regs.DoneIffIdle]

theorem enter_doneIffIdle {f : FsmState} (hd : r.done = false) (hf : f ≠ .idle) : (enter f r).DoneIffIdle :=
  doneIffIdle_of_busy hd hf

theorem settleThen_doneIffIdle (x : SettleTarget) (hd : r.done = false) : (settleThen p x r).DoneIffIdle := by
  obtain ⟨-, -, -, -, -, -, hsettle, -⟩ := x.settleState_kinds
  obtain ⟨-, -, -, htarget, -⟩ := x.state_kinds
  rcases settleThen_cases p x r with ⟨-, e⟩ | ⟨-, e⟩ <;> rw [e]
  · exact enter_doneIffIdle hd htarget
  · exact enter_doneIffIdle hd hsettle

theorem settleStep_doneIffIdle (x : SettleTarget) (hd : r.done = false) (hf : r.state ≠ .idle) :
    (settleStep p x r).DoneIffIdle := by
  obtain ⟨-, -, -, htarget, -⟩ := x.state_kinds
  rcases settleStep_cases p x r with ⟨-, e⟩ | ⟨-, e⟩ <;> rw [e]
  · exact enter_doneIffIdle hd htarget
  · exact doneIffIdle_of_busy hd hf

theorem waitStep_doneIffIdle {level line : Bool} {onEdge onTimeout : Regs → Regs} (hd : r.done = false)
    (hf : r.state ≠ .idle) (he : (onEdge r).DoneIffIdle) (ht : (onTimeout r).DoneIffIdle) :
    (waitStep p level line onEdge onTimeout r).DoneIffIdle := by
  rcases waitStep_cases p level line onEdge onTimeout r with ⟨-, e⟩ | ⟨-, -, e⟩ | ⟨-, -, e⟩ <;> rw [e]
  · exact he
  · exact ht
  · exact doneIffIdle_of_busy hd hf

theorem confirmHeaderEdge_doneIffIdle (hd : r.done = false) : (confirmHeaderEdge p r).DoneIffIdle := by
  rcases confirmHeaderEdge_cases p r with ⟨-, e⟩ | ⟨-, e⟩ <;> rw [e]
  · exact settleThen_doneIffIdle .bitSample hd
  · exact enter_doneIffIdle hd (by decide)

theorem rowEnd_doneIffIdle (timedOut : Bool) (hd : r.done = false) : (rowEnd p timedOut r).DoneIffIdle := by
  rcases rowEnd_cases p timedOut r with ⟨-, e⟩ | ⟨-, -, -, e⟩ <;> rw [e]
  · exact finish_doneIffIdle _ r
  · exact settleThen_doneIffIdle .bitSample hd

theorem columnEnd_doneIffIdle (timedOut : Bool) (hd : r.done = false) : (columnEnd p timedOut r).DoneIffIdle := by
  rcases columnEnd_cases p timedOut r with ⟨-, -, e⟩ | ⟨-, -, e⟩ | ⟨-, -, e⟩ <;> rw [e]
  · exact settleThen_doneIffIdle .bitSample hd
  · exact rowEnd_doneIffIdle timedOut hd
  · obtain ⟨code, e'⟩ := finalCheck_eq_finish timedOut r
    rw [e']
    exact finish_doneIffIdle code r

theorem dataTimeout_doneIffIdle (p : Params) (r : Regs) : (dataTimeout p r).DoneIffIdle := by
  obtain ⟨code, e⟩ := dataTimeout_eq_finish p r
  rw [e]
  exact finish_doneIffIdle code _

theorem edgeOp_doneIffIdle (hd : r.done = false) (hf : r.state ≠ .idle) (start line : Bool) :
    (edgeOp p start line r.state r).DoneIffIdle := by
  cases hstate : r.state with
  | idle => exact absurd hstate hf
  | idleWait => exact waitStep_doneIffIdle hd hf (settleThen_doneIffIdle .syncCheck hd) (finish_doneIffIdle _ r)
  | syncSettle => exact settleStep_doneIffIdle .syncCheck hd hf
  | syncCheck =>
    cases line with
    | true => exact enter_doneIffIdle hd (by decide)
    | false => exact finish_doneIffIdle _ r
  | hdrWait => exact waitStep_doneIffIdle hd hf (settleThen_doneIffIdle .hdrCheck hd) (finish_doneIffIdle _ r)
  | hdrSettle => exact settleStep_doneIffIdle .hdrCheck hd hf
  | hdrCheck =>
    cases line with
    | true => exact confirmHeaderEdge_doneIffIdle hd
    | false => exact finish_doneIffIdle _ r
  | bitSettle => exact settleStep_doneIffIdle .bitSample hd hf
  | bitSample => exact enter_doneIffIdle (f := .bitWait) hd (by decide)
  | bitWait => exact waitStep_doneIffIdle hd hf (columnEnd_doneIffIdle false hd) (dataTimeout_doneIffIdle p r)
  | unused k => exact finish_doneIffIdle _ r

/-- No operation of IDLE raises `done` (R102, R103). -/
theorem edgeOp_idle_done (p : Params) (start line : Bool) (r : Regs) :
    (edgeOp p start line .idle r).done = r.done := by
  cases start <;> rfl

end Sys2Proof.Machine

open Sys2Proof Sys2Proof.Machine

/-- Settles O31: an edge in IDLE never raises `done`; an edge in any other state leaves `done` and IDLE together. -/
theorem doneIsAOneCyclePulse : Obligations.DoneIsAOneCyclePulse := by
  intro s t hst hrst
  rw [(step_next_iff s t).mp hst, setRegs_regs, edgeRegs_of_not_rst hrst]
  by_cases hf : s.regs.state = .idle
  · simp [hf, edgeOp_idle_done]
  · have hop := edgeOp_doneIffIdle (p := s.params) (r := clearDone s.regs) rfl hf s.inputWord.start s.inputWord.line
    exact hop.trans (and_iff_right hf).symm

end

section
/-! PROOF. The operations outside a decode: IDLE held over several edges (R102), the accepted START (R103) and the
recovery from the unused codes (R109). -/

namespace Sys2Proof.Machine

/-! ## IDLE (R102) -/

theorem afterEdges_passEdge (s : State) (k : Nat) : s.passEdge.afterEdges k = s.afterEdges (k + 1) := by
  simp [State.passEdge, State.afterEdges, Nat.add_assoc, Nat.add_comm 1 k]

/-- Neither `rst` nor `start` at the next `n` edges. -/
def State.Quiet (s : State) (n : Nat) : Prop := ∀ i < n, (s.wordAt i).rst = false ∧ (s.wordAt i).start = false

theorem step_of_quiet_idle {s : State} {n : Nat} (hf : s.regs.state = .idle) (h : s.Quiet (n + 1)) :
    step s = .next (s.passEdge.setRegs (clearDone s.regs)) := by
  obtain ⟨hrst, hstart⟩ : s.inputWord.rst = false ∧ s.inputWord.start = false := h 0 (Nat.succ_pos n)
  rw [step_eq, edgeRegs_of_not_rst hrst, hf, hstart]
  rfl

theorem State.Quiet.passEdge_setRegs {s : State} {n : Nat} (h : s.Quiet (n + 1)) (r : Regs) :
    (s.passEdge.setRegs r).Quiet n := by
  intro i hi
  rw [wordAt_setRegs, wordAt_passEdge]
  exact h (i + 1) (Nat.succ_lt_succ hi)

theorem runEdges_of_quiet_idle (k : Nat) {s : State} (hf : s.regs.state = .idle) (h : s.Quiet (k + 1)) :
    s.runEdges (k + 1) = .next ((s.afterEdges (k + 1)).setRegs (clearDone s.regs)) := by
  induction k generalizing s with
  | zero =>
    rw [runEdges_succ (step_of_quiet_idle hf h), ← afterEdges_passEdge s]
    rfl
  | succ k ih =>
    rw [runEdges_succ (step_of_quiet_idle hf h),
      ih (s := s.passEdge.setRegs (clearDone s.regs)) hf (h.passEdge_setRegs _), ← afterEdges_passEdge s]
    rfl

/-- `id_out` shows the result and the buffer alone (R33). -/
theorem idOut_clearDone (r : Regs) : (clearDone r).idOut = r.idOut := rfl

/-! ## START (R103) -/

theorem decodeState_ne_start (code : StateCode) (line line' : Bool) : decodeState code line ≠ .start line' := by
  obtain ⟨f, rfl⟩ : ∃ f : FsmState, f.code = code := ⟨_, code_ofCode code⟩
  rw [decodeState, ofCode_code]
  cases f with
  | unused k => dsimp only; split <;> nofun
  | _ => nofun

theorem decodeEdge_start_iff (line : Bool) (code : StateCode) :
    decodeEdge (InputWord.ofBits false true line) code = .start line ↔ code = 0 := by
  refine ⟨fun h => ?_, fun h => h ▸ decodeEdge_start line⟩
  by_contra hne
  rw [decodeEdge_of_not_start (mt And.left hne)] at h
  exact decodeState_ne_start code line line h

theorem exec_start_of_idle {s : State} (hf : s.regs.state = .idle) (line : Bool) :
    exec (.start line) s = .next (s.tickWith beginDecode) := by
  simp [exec, execStart, hf]

theorem exec_start_of_ne_idle {s : State} (hf : s.regs.state ≠ .idle) (line : Bool) :
    exec (.start line) s = exec (.tick line) s := by
  simp only [exec, execStart]
  cases hstate : s.regs.state with
  | idle => exact absurd hstate hf
  | _ => rfl

/-- Outside IDLE an edge without `rst` performs the operation of the state code (R86). -/
theorem fetch_of_ne_idle {s : State} (hrst : s.inputWord.rst = false) (hf : s.regs.state ≠ .idle) :
    s.fetch = decodeState s.regs.state.code s.inputWord.line := by
  have hcode : s.regs.state.code ≠ 0 := mt (code_eq_zero_iff _).mp hf
  rw [State.fetch, decodeEdge, if_neg (by simp [hrst]), if_neg (mt And.left hcode)]

theorem idOut_of_ne_ok {r : Regs} (h : r.result ≠ .ok) : r.idOut = 0 := if_neg h

theorem Regs.Inv.result_of_busy {p : Params} {r : Regs} (h : r.Inv p) (hf : r.state ≠ .idle) : r.result = .none := by
  obtain ⟨-, -, -, -, -, -, -, -, -, -, -, hbusy⟩ := h
  exact (hbusy hf).1

/-! ## The unused codes (R109) -/

theorem exists_unused_of_ten_le_code {f : FsmState} (h : 10 ≤ f.code.toNat) : ∃ k, f = .unused k := by
  obtain ⟨k, hk⟩ := exists_unused_of_ten_le h
  exact ⟨k, by rw [← ofCode_code f, hk, ofCode_code]⟩

theorem step_of_unused {s : State} {k : Fin 6} (hf : s.regs.state = .unused k) (hrst : s.inputWord.rst = false) :
    step s = .next (s.passEdge.setRegs (finish .none (clearDone s.regs))) := by
  rw [step_eq, edgeRegs_of_not_rst hrst, hf]
  rfl

end Sys2Proof.Machine

open Sys2Proof Sys2Proof.Machine

/-- Settles O3, by induction on the number of edges: each edge in IDLE without `rst` and `start` only clears `done`. -/
theorem idleHoldsTheOutcome : Obligations.IdleHoldsTheOutcome := by
  refine ⟨fun line => ?_, fun _ _ => rfl, fun s n hf hn hq => ?_, idOut_clearDone⟩
  · rw [decodeEdge_of_not_start (mt And.right Bool.false_ne_true)]
    rfl
  · obtain ⟨k, rfl⟩ := Nat.exists_eq_add_of_le' hn
    exact runEdges_of_quiet_idle k hf hq

/-- Settles O4: START is decoded with code 0 alone and performs `beginDecode`, whose IDLE_WAIT is what the next edge
fetches; `result` is not OK there, nor in any busy state of the invariant. -/
theorem startBeginsDecode : Obligations.StartBeginsDecode := by
  refine ⟨decodeEdge_start_iff, fun line s hf => exec_start_of_idle hf line,
    fun line s hf => exec_start_of_ne_idle hf line, fun line s t hf hst hrst => ?_, fun s hinv hf => ?_,
    fun r => idOut_of_ne_ok⟩
  · rw [exec_start_of_idle hf, Host.Outcome.next.injEq] at hst
    have hstate : t.regs.state = .idleWait := by rw [← hst]; rfl
    have hresult : t.regs.result = .none := by rw [← hst]; rfl
    refine ⟨?_, idOut_of_ne_ok (by simp [hresult])⟩
    rw [fetch_of_ne_idle hrst (by simp [hstate]), hstate]
    rfl
  · exact idOut_of_ne_ok (by simp [hinv.result_of_busy hf])

/-- Settles O6: a state with a code of 10 or more is an unused one, whose operation is `finish(NONE)`; the invariant
of the reached states leaves the unused ones out. -/
theorem unusedCodesRecover : Obligations.UnusedCodesRecover := by
  refine ⟨fun _ _ _ _ => rfl, fun _ _ _ _ => rfl, fun s hcode hrst => ?_, fun s bits hreach => ?_⟩
  · obtain ⟨k, hk⟩ := exists_unused_of_ten_le_code hcode
    exact step_of_unused hk hrst
  · obtain ⟨⟨hunused, -⟩, -⟩ := hreach.inv_and_captured
    exact FsmState.code_le_nine hunused

end

section
/-! PROOF. Where the line is observed (R125): an edge that reads it leaves, at the two levels, registers that differ in
the state, in `dat` or in `tof`, one lemma for each shared operation. -/

namespace Sys2Proof.Machine

variable {p : Params} {r : Regs}

/-! ## Ticks and the operation of an edge (R74, R100) -/

theorem exec_tick (line : Bool) (s : State) :
    exec (.tick line) s = .next (s.tickWith (edgeOp s.params false line s.regs.state)) := by
  simp only [exec, execTick]
  cases s.regs.state with
  | unused k => dsimp only; split <;> rfl
  | _ => rfl

theorem exec_tick_eq_iff (a b : Bool) (s : State) :
    exec (.tick a) s = exec (.tick b) s ↔
      edgeOp s.params false a s.regs.state (clearDone s.regs) =
        edgeOp s.params false b s.regs.state (clearDone s.regs) := by
  rw [exec_tick, exec_tick, Host.Outcome.next.injEq]
  exact ⟨congrArg State.regs, congrArg s.setRegs⟩

/-! ## Which state an operation leaves -/

theorem settleThen_state_isWait (x : SettleTarget) : (settleThen p x r).state.isWait = false := by
  obtain ⟨hsettle, -⟩ := x.settleState_kinds
  obtain ⟨htarget, -⟩ := x.state_kinds
  rcases settleThen_cases p x r with ⟨-, e⟩ | ⟨-, e⟩ <;> rw [e]
  · exact htarget
  · exact hsettle

theorem settleThen_state_ne_idle (x : SettleTarget) : (settleThen p x r).state ≠ .idle := by
  obtain ⟨-, -, -, -, -, -, hsettle, -⟩ := x.settleState_kinds
  obtain ⟨-, -, -, htarget, -⟩ := x.state_kinds
  rcases settleThen_cases p x r with ⟨-, e⟩ | ⟨-, e⟩ <;> rw [e]
  · exact htarget
  · exact hsettle

theorem confirmHeaderEdge_state_ne_idle : (confirmHeaderEdge p r).state ≠ .idle := by
  rcases confirmHeaderEdge_cases p r with ⟨-, e⟩ | ⟨-, e⟩ <;> rw [e]
  · exact settleThen_state_ne_idle .bitSample
  · simp

theorem rowEnd_state_isWait (timedOut : Bool) : (rowEnd p timedOut r).state.isWait = false := by
  rcases rowEnd_cases p timedOut r with ⟨-, e⟩ | ⟨-, -, -, e⟩ <;> rw [e]
  · simp
  · exact settleThen_state_isWait .bitSample

theorem columnEnd_state_isWait (timedOut : Bool) : (columnEnd p timedOut r).state.isWait = false := by
  rcases columnEnd_cases p timedOut r with ⟨-, -, e⟩ | ⟨-, -, e⟩ | ⟨-, -, e⟩ <;> rw [e]
  · exact settleThen_state_isWait .bitSample
  · exact rowEnd_state_isWait timedOut
  · obtain ⟨code, e'⟩ := finalCheck_eq_finish timedOut r
    simp [e']

/-! ## The timeout flag: only a data-edge timeout raises it (R177) -/

theorem settleThen_tof (x : SettleTarget) : (settleThen p x r).tof = r.tof := by
  rcases settleThen_cases p x r with ⟨-, e⟩ | ⟨-, e⟩ <;> rw [e, enter_tof]

theorem rowEnd_tof (timedOut : Bool) : (rowEnd p timedOut r).tof = r.tof := by
  rcases rowEnd_cases p timedOut r with ⟨-, e⟩ | ⟨-, -, -, e⟩ <;> rw [e]
  · rw [finish_tof]
  · rw [settleThen_tof]

theorem columnEnd_tof (timedOut : Bool) : (columnEnd p timedOut r).tof = r.tof := by
  rcases columnEnd_cases p timedOut r with ⟨-, -, e⟩ | ⟨-, -, e⟩ | ⟨-, -, e⟩ <;> rw [e]
  · rw [settleThen_tof]
  · exact rowEnd_tof timedOut
  · obtain ⟨code, e'⟩ := finalCheck_eq_finish timedOut r
    rw [e', finish_tof]

theorem dataTimeout_tof : (dataTimeout p r).tof = true := columnEnd_tof true

/-! ## The two levels part -/

/-- A poll that sees the edge leaves the wait; one that does not times out or stays (R120). -/
theorem waitStep_line_ne {onEdge onTimeout : Regs → Regs} (level : Bool) (hwait : r.state.isWait = true)
    (hleave : (onEdge r).state.isWait = false) (htimeout : onEdge r ≠ onTimeout r) :
    waitStep p level false onEdge onTimeout r ≠ waitStep p level true onEdge onTimeout r := by
  have hedge : waitStep p level (!level) onEdge onTimeout r = onEdge r := if_pos (Bool.not_ne_self level)
  have hne : onEdge r ≠ waitStep p level level onEdge onTimeout r := by
    rcases waitStep_cases p level level onEdge onTimeout r with ⟨h, -⟩ | ⟨-, -, e⟩ | ⟨-, -, e⟩
    · exact absurd rfl h
    · rwa [e]
    · rw [e]
      exact ne_of_apply_ne (·.state.isWait) (by simp [hleave, hwait])
  rw [← hedge] at hne
  cases level with
  | true => exact hne
  | false => exact hne.symm

/-- The carrier wait and the header wait: an edge goes on to a settle delay, a timeout ends the decode (R140, R144). -/
theorem waitStep_settleThen_line_ne (x : SettleTarget) (code : ResultCode) (hwait : r.state.isWait = true) :
    waitStep p true false (settleThen p x) (finish code) r ≠ waitStep p true true (settleThen p x) (finish code) r :=
  waitStep_line_ne true hwait (settleThen_state_isWait x) (ne_of_apply_ne Regs.state (settleThen_state_ne_idle x))

/-- The data wait: without an earlier timeout, the timeout flag tells a timeout from an edge (R175, R177). -/
theorem waitStep_columnEnd_line_ne (level : Bool) (hwait : r.state.isWait = true) (htof : r.tof = false) :
    waitStep p level false (columnEnd p false) (dataTimeout p) r ≠
      waitStep p level true (columnEnd p false) (dataTimeout p) r :=
  waitStep_line_ne level hwait (columnEnd_state_isWait false)
    (ne_of_apply_ne Regs.tof (by simp [columnEnd_tof, dataTimeout_tof, htof]))

theorem edgeOp_line_ne (start : Bool) (htof : r.tof = false)
    (hf : r.state ∈ [FsmState.idleWait, .syncCheck, .hdrWait, .hdrCheck, .bitSample, .bitWait]) :
    edgeOp p start false r.state r ≠ edgeOp p start true r.state r := by
  cases hstate : r.state with
  | idleWait => exact waitStep_settleThen_line_ne .syncCheck .noCarrier (by simp [hstate])
  | syncCheck => exact ne_of_apply_ne Regs.state (by simp [edgeOp])
  | hdrWait => exact waitStep_settleThen_line_ne .hdrCheck .headerTimeout (by simp [hstate])
  | hdrCheck => exact ne_of_apply_ne Regs.state confirmHeaderEdge_state_ne_idle.symm
  | bitSample => exact ne_of_apply_ne Regs.dat Bool.false_ne_true
  | bitWait => exact waitStep_columnEnd_line_ne r.dat (by simp [hstate]) htof
  | idle | syncSettle | hdrSettle | bitSettle | unused => simp [hstate] at hf

end Sys2Proof.Machine

open Sys2Proof Sys2Proof.Machine

/-- Settles O34: the settle ticks, IDLE and an accepted START take no line; in the other states the two levels leave
different registers, told apart by the state, by `dat` after a sample and by `tof` after a data-edge timeout. -/
theorem lineIsIgnoredWhereTheSpecSays : Obligations.LineIsIgnoredWhereTheSpecSays := by
  refine ⟨fun _ _ _ => ⟨rfl, rfl, rfl, rfl⟩, fun a b s hf => ?_, fun s htof hf => ?_⟩
  · rw [exec_start_of_idle hf, exec_start_of_idle hf]
  · rw [Ne, exec_tick_eq_iff]
    exact edgeOp_line_ne (r := clearDone s.regs) false htof hf

end

section
/-! PROOF. The edge that ends a data wait (R175): in columns 0 to 3 it leads to the next sample (R176), and at bit
(10, 4) it runs the final check on a full frame, which leaves the buffer as the samples filled it (R180). -/

namespace Sys2Proof.Machine

variable {p : Params} {r : Regs}

/-! ## The end of a wait -/

theorem settleThen_eq (p : Params) (x : SettleTarget) (r : Regs) :
    settleThen p x r = { r with state := if p.S = 0 then x.state else x.settleState, cnt := 0 } := by
  rcases settleThen_cases p x r with ⟨hS, e⟩ | ⟨hS, e⟩ <;> rw [e]
  · rw [if_pos hS]
    rfl
  · rw [if_neg hS.ne']
    rfl

theorem waitStep_of_line_ne {level line : Bool} (h : line ≠ level) (onEdge onTimeout : Regs → Regs) :
    waitStep p level line onEdge onTimeout r = onEdge r := if_pos h

theorem exec_bitWait_of_line_ne {s : State} {line : Bool} (h : line ≠ s.regs.dat) :
    exec (.bitWait line) s = .next (s.tickWith (columnEnd s.params false)) :=
  congrArg (fun regs => Host.Outcome.next (s.setRegs regs))
    (waitStep_of_line_ne (r := clearDone s.regs) h (columnEnd s.params false) (dataTimeout s.params))

theorem step_of_bitWait_line_ne {s : State} (hf : s.regs.state = .bitWait) (hrst : s.inputWord.rst = false)
    (h : s.inputWord.line ≠ s.regs.dat) :
    step s = .next (s.passEdge.setRegs (columnEnd s.params false (clearDone s.regs))) := by
  have hop : edgeOp s.params s.inputWord.start s.inputWord.line .bitWait (clearDone s.regs) =
      columnEnd s.params false (clearDone s.regs) := waitStep_of_line_ne h _ _
  rw [step_eq, edgeRegs_of_not_rst hrst, hf, hop]

/-! ## The column's end by its place in the matrix -/

theorem columnEnd_of_col_le (hcol : r.col.toNat ≤ 3) :
    columnEnd p false r = settleThen p .bitSample { r with col := r.col + 1 } := by
  rcases columnEnd_cases p false r with ⟨-, -, e⟩ | ⟨hend, -, -⟩ | ⟨hend, -, -⟩
  · exact e
  all_goals
    have hcol4 : 4 ≤ r.col.toNat := by simpa using hend
    omega

theorem columnEnd_of_le_row (timedOut : Bool) (hcol : 4 ≤ r.col.toNat) (hrow : 10 ≤ r.row.toNat) :
    columnEnd p timedOut r = finalCheck timedOut r := by
  rcases columnEnd_cases p timedOut r with ⟨-, hcol3, -⟩ | ⟨-, hrow9, -⟩ | ⟨-, -, e⟩
  · omega
  · omega
  · exact e

/-- In BIT_WAIT the bit of the current row and column is the last one sampled (R178). -/
theorem Regs.Captured.length_of_bitWait {bits : List Bool} (h : r.Captured bits) (hf : r.state = .bitWait) :
    bits.length = 5 * r.row.toNat + r.col.toNat + 1 := by
  obtain ⟨-, hlen, -⟩ := h
  simpa [hf] using hlen

end Sys2Proof.Machine

open Sys2Proof Sys2Proof.Machine

/-- Settles O15: the edge ends the wait, and a column 0 to 3 ends by the settle delay before the next column's
sample. -/
theorem columnAdvancesOnItsEdge : Obligations.ColumnAdvancesOnItsEdge := by
  intro line s hline hcol
  have hcol' : (clearDone s.regs).col.toNat ≤ 3 := hcol
  rw [exec_bitWait_of_line_ne hline, State.tickWith, columnEnd_of_col_le hcol', settleThen_eq]
  rfl

/-- Settles O50: at (10, 4) 55 bits are sampled, so the buffer holds their data bits; the edge ends the decode through
`finish`, which leaves the buffer alone. -/
theorem fullFrameFillsTheBuffer : Obligations.FullFrameFillsTheBuffer := by
  intro s t bits hcap hf hrow hcol hrst hline hst
  have hlen : bits.length = 55 := by simpa [hrow, hcol] using hcap.length_of_bitWait hf
  have hbuf : t.regs.idbuf = s.regs.idbuf := by
    have hend : columnEnd s.params false (clearDone s.regs) = finalCheck false (clearDone s.regs) :=
      columnEnd_of_le_row false (by simp [hcol]) (by simp [hrow])
    obtain ⟨code, hfinish⟩ := finalCheck_eq_finish false (clearDone s.regs)
    rw [step_of_bitWait_line_ne hf hrst hline, hend, hfinish, Host.Outcome.next.injEq] at hst
    rw [← hst, setRegs_regs, finish_idbuf, clearDone_idbuf]
  refine ⟨hlen, fun j k hk => ?_⟩
  rw [hbuf, getLsbD_idbuf_of_captured hcap hlen j hk]

end

section
/-! PROOF. Row 10 and the row parity (R203): an operation that does not read `rowpar` commutes with writing it, one
lemma for each shared operation. The row-end check is the only operation that decides anything by it, and after row 9
no column's end runs that check. -/

namespace Sys2Proof.Machine

variable {p : Params} {r : Regs}

/-- The registers with another row parity. -/
def Regs.withRowpar (b : Bool) (r : Regs) : Regs := { r with rowpar := b }

/-! ## Operations that do not read the row parity -/

theorem settleThen_withRowpar (x : SettleTarget) (b : Bool) :
    settleThen p x (r.withRowpar b) = (settleThen p x r).withRowpar b := by
  rw [settleThen_eq, settleThen_eq]
  rfl

theorem settleStep_withRowpar (x : SettleTarget) (b : Bool) :
    settleStep p x (r.withRowpar b) = (settleStep p x r).withRowpar b := by
  simp only [settleStep, apply_ite (Regs.withRowpar b)]
  rfl

theorem waitStep_withRowpar {level line b : Bool} {onEdge onTimeout : Regs → Regs}
    (hedge : onEdge (r.withRowpar b) = (onEdge r).withRowpar b)
    (htimeout : onTimeout (r.withRowpar b) = (onTimeout r).withRowpar b) :
    waitStep p level line onEdge onTimeout (r.withRowpar b) =
      (waitStep p level line onEdge onTimeout r).withRowpar b := by
  simp only [waitStep, hedge, htimeout, apply_ite (Regs.withRowpar b)]
  rfl

theorem confirmHeaderEdge_withRowpar (b : Bool) :
    confirmHeaderEdge p (r.withRowpar b) = (confirmHeaderEdge p r).withRowpar b := by
  rw [confirmHeaderEdge, confirmHeaderEdge, apply_ite (Regs.withRowpar b), ← settleThen_withRowpar]
  rfl

theorem finalCheck_withRowpar (timedOut b : Bool) :
    finalCheck timedOut (r.withRowpar b) = (finalCheck timedOut r).withRowpar b := by
  simp only [finalCheck, apply_ite (Regs.withRowpar b)]
  rfl

/-! ## The end of a column after row 9 (R175, R177) -/

theorem columnEnd_of_ten_le_row (hrow : 10 ≤ r.row.toNat) (timedOut : Bool) :
    columnEnd p timedOut r =
      if !timedOut && inDataCol r then settleThen p .bitSample { r with col := r.col + 1 }
      else finalCheck timedOut r := by
  have hdata : ¬ inDataRow r = true := by
    rw [inDataRow_iff]
    omega
  rw [columnEnd, if_neg hdata]

theorem columnEnd_withRowpar (hrow : 10 ≤ r.row.toNat) (timedOut b : Bool) :
    columnEnd p timedOut (r.withRowpar b) = (columnEnd p timedOut r).withRowpar b := by
  rw [columnEnd_of_ten_le_row hrow, columnEnd_of_ten_le_row (r := r.withRowpar b) hrow,
    apply_ite (Regs.withRowpar b), ← settleThen_withRowpar, finalCheck_withRowpar]
  rfl

theorem dataTimeout_withRowpar (hrow : 10 ≤ r.row.toNat) (b : Bool) :
    dataTimeout p (r.withRowpar b) = (dataTimeout p r).withRowpar b :=
  columnEnd_withRowpar (r := { r with tof := true }) hrow true b

theorem finalCheck_eq_finish_ok (htof : r.tof = false) (hcol : ∀ c : Fin 4, r.colpar[c.val] = false) :
    finalCheck false r = finish .ok r := by
  have heven : someColumnOdd r = false := by
    have h0 : r.colpar[0] = false := hcol 0
    have h1 : r.colpar[1] = false := hcol 1
    have h2 : r.colpar[2] = false := hcol 2
    have h3 : r.colpar[3] = false := hcol 3
    simp [someColumnOdd, h0, h1, h2, h3]
  rcases finalCheck_cases false r with ⟨htimeout, -⟩ | ⟨-, -, hodd, -⟩ | ⟨-, -, -, e⟩
  · simp [htof] at htimeout
  · simp [heven] at hodd
  · exact e

/-! ## Every edge after row 9 -/

/-- An accepted START writes `rowpar` and a sample computes it from itself; every other operation carries it along. -/
theorem edgeOp_withRowpar (hrow : 10 ≤ r.row.toNat) (start line b : Bool) (f : FsmState) :
    ∃ b', edgeOp p start line f (r.withRowpar b) = (edgeOp p start line f r).withRowpar b' := by
  cases f with
  | idle =>
    cases start with
    | true => exact ⟨false, rfl⟩
    | false => exact ⟨b, rfl⟩
  | idleWait => exact ⟨b, waitStep_withRowpar (settleThen_withRowpar .syncCheck b) rfl⟩
  | syncSettle => exact ⟨b, settleStep_withRowpar .syncCheck b⟩
  | syncCheck => cases line <;> exact ⟨b, rfl⟩
  | hdrWait => exact ⟨b, waitStep_withRowpar (settleThen_withRowpar .hdrCheck b) rfl⟩
  | hdrSettle => exact ⟨b, settleStep_withRowpar .hdrCheck b⟩
  | hdrCheck =>
    cases line with
    | true => exact ⟨b, confirmHeaderEdge_withRowpar b⟩
    | false => exact ⟨b, rfl⟩
  | bitSettle => exact ⟨b, settleStep_withRowpar .bitSample b⟩
  | bitSample => exact ⟨b ^^ line, rfl⟩
  | bitWait =>
    exact ⟨b, waitStep_withRowpar (columnEnd_withRowpar hrow false b) (dataTimeout_withRowpar hrow b)⟩
  | unused k => exact ⟨b, rfl⟩

theorem edgeRegs_withRowpar (hrow : 10 ≤ r.row.toNat) (w : InputWord) (b : Bool) :
    ∃ b', edgeRegs p w (r.withRowpar b) = (edgeRegs p w r).withRowpar b' := by
  cases hrst : w.rst with
  | true =>
    rw [edgeRegs_of_rst hrst, edgeRegs_of_rst hrst]
    exact ⟨false, rfl⟩
  | false =>
    rw [edgeRegs_of_not_rst hrst, edgeRegs_of_not_rst hrst]
    exact edgeOp_withRowpar (r := clearDone r) hrow w.start w.line b r.state

theorem step_withRowpar {s t : State} (hrow : 10 ≤ s.regs.row.toNat) (hst : step s = .next t) (b : Bool) :
    ∃ b', step (s.setRegs (s.regs.withRowpar b)) = .next (t.setRegs (t.regs.withRowpar b')) := by
  obtain ⟨b', hregs⟩ := edgeRegs_withRowpar (p := s.params) hrow s.inputWord b
  refine ⟨b', (step_next_iff _ _).mpr ?_⟩
  rw [(step_next_iff s t).mp hst, setRegs_regs, ← hregs]
  rfl

theorem exec_bitWaitFinalCheck_withRowpar {s t : State} {timedOut : Bool}
    (hst : exec (.bitWaitFinalCheck timedOut) s = .next t) (b : Bool) :
    exec (.bitWaitFinalCheck timedOut) (s.setRegs (s.regs.withRowpar b)) =
      .next (t.setRegs (t.regs.withRowpar b)) := by
  obtain rfl : s.tickWith (finalCheck timedOut) = t := Host.Outcome.next.inj hst
  exact congrArg (fun regs => Host.Outcome.next (s.setRegs regs))
    (finalCheck_withRowpar (r := clearDone s.regs) timedOut b)

end Sys2Proof.Machine

open Sys2Proof Sys2Proof.Machine

/-- Settles O18: a sample folds the bit into `rowpar`; in row 10 every edge, and the final check in any row, lets a
changed `rowpar` reach `rowpar` alone; and the last edge of row 10 runs the final check, which with even columns and
no timeout ends with OK. -/
theorem row10ParityIsNotChecked : Obligations.Row10ParityIsNotChecked := by
  refine ⟨fun line s t _ hst => ?_, fun s t b hrow hst => ?_,
    fun _ b _ _ hst => exec_bitWaitFinalCheck_withRowpar hst b, fun line s hrow hcol hline htof heven => ?_⟩
  · obtain rfl : s.tickWith (sampleBit line) = t := Host.Outcome.next.inj hst
    rfl
  · exact step_withRowpar (by simp [hrow]) hst b
  · have hend : columnEnd s.params false (clearDone s.regs) = finalCheck false (clearDone s.regs) :=
      columnEnd_of_le_row false (by simp [hcol]) (by simp [hrow])
    rw [exec_bitWait_of_line_ne hline, State.tickWith, hend,
      finalCheck_eq_finish_ok (r := clearDone s.regs) htof heven]
    rfl

end

section
/-! PROOF. A held reset (R250): every edge with `rst` gives the reset registers and only uses up its input word, and
the edge after the last one decodes a START. -/

namespace Sys2Proof.Machine

/-- `rst` at the next `n` edges. -/
def State.ResetHeld (s : State) (n : Nat) : Prop := ∀ i < n, (s.wordAt i).rst = true

theorem step_of_resetHeld {s : State} {n : Nat} (h : s.ResetHeld (n + 1)) :
    step s = .next (s.passEdge.setRegs Regs.reset) := by
  have hrst : s.inputWord.rst = true := h 0 (Nat.succ_pos n)
  rw [step_eq, edgeRegs_of_rst hrst]

theorem State.ResetHeld.passEdge_setRegs {s : State} {n : Nat} (h : s.ResetHeld (n + 1)) (r : Regs) :
    (s.passEdge.setRegs r).ResetHeld n := by
  intro i hi
  rw [wordAt_setRegs, wordAt_passEdge]
  exact h (i + 1) (Nat.succ_lt_succ hi)

theorem runEdges_of_resetHeld (k : Nat) {s : State} (h : s.ResetHeld (k + 1)) :
    s.runEdges (k + 1) = .next ((s.afterEdges (k + 1)).setRegs Regs.reset) := by
  induction k generalizing s with
  | zero =>
    rw [runEdges_succ (step_of_resetHeld h), ← afterEdges_passEdge s]
    rfl
  | succ k ih =>
    rw [runEdges_succ (step_of_resetHeld h), ih (h.passEdge_setRegs _), ← afterEdges_passEdge s]
    rfl

/-- In IDLE, where a reset leads, the START word is decoded as START. -/
theorem fetch_start_of_idle {s : State} {line : Bool} (hf : s.regs.state = .idle)
    (hw : s.inputWord = InputWord.ofBits false true line) : s.fetch = .start line := by
  rw [State.fetch, hw, (code_eq_zero_iff _).mpr hf, decodeEdge_start]

end Sys2Proof.Machine

open Sys2Proof Sys2Proof.Machine

/-- Settles O1, by induction on the number of edges: each edge with `rst` loads the reset registers, whose IDLE
decodes the START word that is sampled next. -/
theorem resetLoadsEveryRegister : Obligations.ResetLoadsEveryRegister := by
  refine ⟨decodeEdge_reset, fun _ _ _ => rfl, fun s n hn hrst => ⟨?_, fun line hw => ?_⟩⟩
  · obtain ⟨k, rfl⟩ := Nat.exists_eq_add_of_le' hn
    exact runEdges_of_resetHeld k hrst
  · exact fetch_start_of_idle rfl ((inputWord_afterEdges s _ n).trans hw)

end

section
/-! PROOF. Decoding and encoding agree (R74, R78 to R81, R86): an instruction with a word of its own is the one its
word decodes to, and every word decodes to such an instruction. -/

namespace Sys2Proof

/-- A state row met with the word `00l` (R78). -/
theorem decode_pair_tick (code : StateCode) (line : Bool) :
    decode (.pair (InputWord.ofBits false false line) code) = decodeState code line :=
  decodeEdge_of_not_start (mt And.right Bool.false_ne_true) line

/-- The two rows of unused codes (R79). -/
theorem decodeState_of_ten_le {code : StateCode} (h : 10 ≤ code.toNat) (line : Bool) :
    decodeState code line = if code.toNat ≤ 11 then .illegal10to11 code line else .illegal12to15 code line := by
  obtain ⟨k, rfl⟩ := exists_unused_of_ten_le h
  rw [decodeState, Machine.ofCode_code]

theorem ten_le_code_unused (k : Fin 6) : 10 ≤ (FsmState.unused k).code.toNat := by
  revert k
  decide

theorem decode_encode {i : Instr} (hwf : i.wf = true) (hword : i.hasOwnWord = true) : decode (encode i) = i := by
  cases i with
  | reset | start | tick => simp [encode, decode, decodeInput]
  | bitWaitRowEnd | bitWaitFinalCheck => simp [Instr.hasOwnWord] at hword
  | illegal10to11 code line =>
    have hcode : 10 ≤ code.toNat ∧ code.toNat ≤ 11 := by simpa [Instr.wf] using hwf
    exact (decode_pair_tick code line).trans
      ((decodeState_of_ten_le hcode.1 line).trans (if_pos hcode.2))
  | illegal12to15 code line =>
    have hcode : 12 ≤ code.toNat := by simpa [Instr.wf] using hwf
    exact (decode_pair_tick code line).trans
      ((decodeState_of_ten_le (by omega) line).trans (if_neg (by omega)))
  | _ line => exact decode_pair_tick _ line

theorem decode_encode_of_shared_word {i : Instr} (hword : i.hasOwnWord = false) :
    decode (encode i) = .bitWait false := by
  cases i with
  | bitWaitRowEnd | bitWaitFinalCheck => exact decode_pair_tick 9 false
  | _ => simp [Instr.hasOwnWord] at hword

theorem decodeState_wf (code : StateCode) (line : Bool) :
    (decodeState code line).wf = true ∧ (decodeState code line).hasOwnWord = true := by
  obtain ⟨f, rfl⟩ : ∃ f : FsmState, f.code = code := ⟨_, code_ofCode code⟩
  cases f with
  | unused k =>
    have hten := ten_le_code_unused k
    rw [decodeState_of_ten_le hten]
    split
    · simp [Instr.wf, Instr.hasOwnWord, *]
    · simp [Instr.wf, Instr.hasOwnWord]
      omega
  | _ => exact ⟨rfl, rfl⟩

theorem decode_wf (f : Form) : (decode f).wf = true ∧ (decode f).hasOwnWord = true := by
  cases f with
  | input3 w =>
    rw [decode, decodeInput]
    split
    · exact ⟨rfl, rfl⟩
    · split <;> exact ⟨rfl, rfl⟩
  | pair w code =>
    rw [decode, decodeEdge]
    split
    · exact ⟨rfl, rfl⟩
    · split
      · exact ⟨rfl, rfl⟩
      · exact decodeState_wf code w.line

/-! ## The byte of a pair (log 7) -/

theorem byteWord_pairByte (w : InputWord) (code : StateCode) : byteWord (pairByte w code) = w := by
  revert w code
  decide

theorem byteCode_pairByte (w : InputWord) (code : StateCode) : byteCode (pairByte w code) = code := by
  revert w code
  decide

theorem getLsbD_pairByte_seven (w : InputWord) (code : StateCode) : (pairByte w code).getLsbD 7 = false := by
  revert w code
  decide

theorem decodeByte_pairByte (w : InputWord) (code : StateCode) :
    decodeByte (pairByte w code) = .ok (decodeEdge w code) := by
  rw [decodeByte, getLsbD_pairByte_seven, byteWord_pairByte, byteCode_pairByte]
  rfl

/-- A byte below 16 is a state code met with the word 000. -/
theorem ofNat_eq_pairByte {w : Nat} (h : w < 16) : BitVec.ofNat 8 w = pairByte 0 (BitVec.ofNat 4 w) := by
  interval_cases w <;> rfl

/-! ## Result codes (R80) -/

/-- The result code of each 3-bit number. -/
def ResultCode.ofCode (v : BitVec 3) : ResultCode :=
  match v.toNat with
  | 0 => .none
  | 1 => .ok
  | 2 => .noCarrier
  | 3 => .framingError
  | 4 => .headerTimeout
  | 5 => .rowParityError
  | 6 => .columnParityError
  | _ => .timeout

theorem ResultCode.ofCode_code (a : ResultCode) : ResultCode.ofCode a.code = a := by
  cases a <;> rfl

theorem ResultCode.code_ofCode (v : BitVec 3) : (ResultCode.ofCode v).code = v := by
  revert v
  decide

end Sys2Proof

namespace Sys2Proof.Machine

/-! ## The word alone and the word with the state code -/

/-- START and TICK look the state code up themselves (R74, R111). -/
theorem exec_decodeInput (w : InputWord) (s : State) :
    exec (decodeInput w) s = exec (decodeEdge w s.regs.state.code) s := by
  rw [decodeInput, decodeEdge]
  by_cases hrst : w.rst = true
  · rw [if_pos hrst, if_pos hrst]
  rw [if_neg hrst, if_neg hrst]
  have htick : exec (.tick w.line) s = exec (decodeState s.regs.state.code w.line) s := by
    rw [exec_tick, exec_decodeState]
  by_cases hstart : w.start = true
  · by_cases hidle : s.regs.state = .idle
    · rw [if_pos hstart, if_pos ⟨(code_eq_zero_iff _).mpr hidle, hstart⟩]
    · rw [if_pos hstart, if_neg (mt (fun h => (code_eq_zero_iff _).mp h.1) hidle), exec_start_of_ne_idle hidle, htick]
  · rw [if_neg hstart, if_neg (mt And.right hstart), htick]

/-- What a table word of each width reads as. -/
theorem decodeTableWord_cases {nbits w : Nat} {i : Instr} (h : decodeTableWord nbits w = some i) :
    nbits = 3 ∧ decodeInput (BitVec.ofNat 3 w) = i ∨
      nbits ≠ 3 ∧ decodeEdge (byteWord (BitVec.ofNat 8 w)) (byteCode (BitVec.ofNat 8 w)) = i := by
  unfold decodeTableWord at h
  split at h
  · nomatch h
  rename_i hlt
  split at h
  · exact .inl ⟨‹_›, Option.some.inj h⟩
  split at h
  · obtain rfl : nbits = 4 := ‹_›
    have hw : w < 16 := by omega
    refine .inr ⟨by decide, ?_⟩
    rw [ofNat_eq_pairByte hw, byteWord_pairByte, byteCode_pairByte]
    exact Option.some.inj h
  split at h
  · refine .inr ⟨‹_›, ?_⟩
    simp only [decodeBytes, decodeByte] at h
    split at h
    · rename_i i' _ hok
      split at hok
      · nomatch hok
      · simp only [Except.map, Except.ok.injEq, Prod.mk.injEq] at hok
        rw [hok.1]
        exact Option.some.inj h
    · nomatch h
  · nomatch h

theorem inputWord_present (s : State) (w : InputWord) : (s.present w).inputWord = w := rfl

end Sys2Proof.Machine

open Sys2Proof Sys2Proof.Machine

/-- Settles O22: the round trip constructor by constructor, and injectivity from it. -/
theorem decodeOfEncodeIsTheInstruction : Obligations.DecodeOfEncodeIsTheInstruction := by
  refine ⟨fun _ => decode_encode, fun _ => decode_encode_of_shared_word, fun i j hi hj hi' hj' h => ?_, decode_wf⟩
  rw [← decode_encode hi hi', h, decode_encode hj hj']

/-- Settles O21: by the three priorities of the input word. -/
theorem wordAndPairDecodingAgree : Obligations.WordAndPairDecodingAgree := exec_decodeInput

/-- Settles O23: the two fields of the byte are read back, and bit 7 of a pair's byte is 0. -/
theorem pairBytesDecode : Obligations.PairBytesDecode := by
  refine ⟨fun w code rest => ?_, fun b rest h => ?_, rfl⟩
  · rw [decodeBytes, decodeByte_pairByte]
    rfl
  · rw [decodeBytes, decodeByte, if_pos h]
    rfl

/-- Settles O24: each word is read off the table. -/
theorem specWordsDecode : Obligations.SpecWordsDecode := by
  unfold Obligations.SpecWordsDecode
  decide

/-- Settles O25: at 3 bits the word is presented and decoded alone; at the other widths the byte's state code is put
in place, and the next edge decodes the pair that the table word stands for. -/
theorem tableWordIsTheNextInstruction : Obligations.TableWordIsTheNextInstruction := by
  intro s nbits w i h
  rcases decodeTableWord_cases h with ⟨rfl, rfl⟩ | ⟨hbits, rfl⟩
  · refine ⟨?_, fun hne => absurd rfl hne⟩
    exact (exec_decodeInput (BitVec.ofNat 3 w) (s.present (BitVec.ofNat 3 w)).passEdge).symm
  · have hfetch : (s.withFetchWord nbits w).fetch =
        decodeEdge (byteWord (BitVec.ofNat 8 w)) (byteCode (BitVec.ofNat 8 w)) := by
      rw [State.withFetchWord, State.presentTableWord, if_neg hbits, State.fetch, inputWord_present, present_regs,
        setRegs_regs, code_ofCode]
    refine ⟨?_, fun _ => hfetch⟩
    rw [step, hfetch]
    rw [State.withFetchWord, State.presentTableWord, if_neg hbits]
    rfl

/-- Settles O26: the number of each code is read back by `ResultCode.ofCode`. -/
theorem resultCodesAreNumbered : Obligations.ResultCodesAreNumbered := by
  refine ⟨rfl, fun a b h => ?_, fun v => ⟨_, ResultCode.code_ofCode v⟩⟩
  rw [← ResultCode.ofCode_code a, h, ResultCode.ofCode_code]

end

section
/-! PROOF. What a step is made of (R86, R100, R112) and the two invariants it keeps (R38). -/

namespace Sys2Proof.Machine

theorem inputWord_cons {s : State} {w : InputWord} {rest : List InputWord} (h : s.inputs = w :: rest) :
    s.inputWord = w := by
  rw [State.inputWord, State.wordAt, h]
  rfl

theorem inputWord_nil {s : State} (h : s.inputs = []) : s.inputWord = Config.envWord s.edge := by
  rw [State.inputWord, State.wordAt, h]
  rfl

end Sys2Proof.Machine

open Sys2Proof Sys2Proof.Machine

/-- Settles O44: the step lemma of R38 items 1 to 5, which goes through every shared operation. -/
theorem stepKeepsTheInvariant : Obligations.StepKeepsTheInvariant := fun _ _ => step_inv

/-- Settles O45: the step lemma of R38 items 6 and 7, with the bits sampled so far beside the state. -/
theorem stepKeepsTheCapturedBits : Obligations.StepKeepsTheCapturedBits := fun _ _ _ => step_captured

/-- Settles O46: the reset registers have both invariants under any parameters. -/
theorem resetMeetsTheInvariants : Obligations.ResetMeetsTheInvariants := ⟨reset_inv Params.build, reset_captured⟩

/-- Settles O2: the registers by the table of R40, and the outputs from them. -/
theorem resetStateHoldsTheResetTable : Obligations.ResetStateHoldsTheResetTable := ⟨rfl, rfl⟩

/-- Settles O5: TICK and the state code run the same operation of the edge, which changes registers alone. -/
theorem tickRunsTheStateOperation : Obligations.TickRunsTheStateOperation := by
  refine fun line s => ⟨?_, _, exec_tick line s⟩
  rw [exec_tick, exec_decodeState]

/-- Settles O27: the step's word is the first listed one, or the free word of the edge where none is listed. -/
theorem stepRunsTheDecodedInstruction : Obligations.StepRunsTheDecodedInstruction := by
  refine ⟨fun s w rest h => ?_, fun s h => ?_⟩
  · rw [step, State.fetch, inputWord_cons h, State.passEdge, h]
    rfl
  · rw [step, State.fetch, inputWord_nil h, State.passEdge, h]
    rfl

/-- Settles O28: every edge leaves the registers that `edgeRegs` gives. -/
theorem everyEdgeCompletes : Obligations.EveryEdgeCompletes := fun s => ⟨_, step_eq s⟩

/-- Settles O29: an edge writes the registers of a state that has only passed its input word. -/
theorem parametersNeverChange : Obligations.ParametersNeverChange := by
  intro s t hst
  rw [(step_next_iff s t).mp hst]
  exact ⟨rfl, rfl, rfl⟩

/-- Settles O30: the next registers are `edgeRegs` of the parameters, the input word and the registers. -/
theorem nextRegistersDependOnNothingElse : Obligations.NextRegistersDependOnNothingElse := by
  intro s s' t t' hregs hparams hword hst hst'
  rw [(step_next_iff s t).mp hst, (step_next_iff s' t').mp hst', setRegs_regs, setRegs_regs, hregs, hparams, hword]

end

section
/-! PROOF. A flipped bit of a frame changes one place of the matrix, and so the parity of one row and one column (R206,
R207). -/

namespace Sys2Proof.Machine

theorem bitAt_set_not (bits : List Bool) {n : Nat} (hn : n < bits.length) (r c : Nat) :
    bitAt (bits.set n (!bits.getD n false)) r c = (bitAt bits r c ^^ (decide (5 * r + c = n) && true)) := by
  unfold bitAt
  by_cases h : 5 * r + c = n
  · simp [h, hn]
  · simp [h, Ne.symm h]

end Sys2Proof.Machine

open Sys2Proof Sys2Proof.Machine

/-- Settles O51: place n of the matrix is bit (n / 5, n % 5). -/
theorem oneFlippedBitChangesItsRowAndColumn : Obligations.OneFlippedBitChangesItsRowAndColumn := by
  intro bits n hn hlen
  have hplace := bitAt_set_not bits (hlen ▸ hn)
  refine ⟨fun r _ => ?_, fun c hc => ?_⟩
  · rw [rowSum_of_bitAt_xor hplace, Bool.and_true]
  · rw [colSum_of_bitAt_xor hplace hn hc, Bool.and_true]

end

section
/-! PROOF. One edge of each state as an equation (R120, R122, R140 to R146, R171 to R177, R200, R201): the shared
operations with their branches written out, and the arms of `exec` over them. -/

namespace Sys2Proof.Machine

variable {p : Params} {r : Regs}

/-! ## The shared operations -/

/-- A poll of a wait for a low line (R140, R144). -/
theorem waitForLow_eq (p : Params) (x : SettleTarget) (code : ResultCode) (line : Bool) (r : Regs) :
    waitStep p true line (settleThen p x) (finish code) r =
      if line = false then { r with state := if p.S = 0 then x.state else x.settleState, cnt := 0 }
      else if r.cnt.toNat + 1 = p.T then { r with state := .idle, cnt := 0, result := code, done := true }
      else { r with cnt := r.cnt + 1 } := by
  rcases waitStep_cases p true line (settleThen p x) (finish code) r with
    ⟨hline, e⟩ | ⟨hline, hT, e⟩ | ⟨hline, hT, e⟩ <;> rw [e]
  · rw [if_pos (by simpa using hline), settleThen_eq]
  · rw [if_neg (by simp [hline]), if_pos hT]
    rfl
  · rw [if_neg (by simp [hline]), if_neg hT]

theorem settleStep_eq (p : Params) (x : SettleTarget) (r : Regs) :
    settleStep p x r =
      if r.cnt.toNat + 1 = p.S then { r with state := x.state, cnt := 0 } else { r with cnt := r.cnt + 1 } := by
  rcases settleStep_cases p x r with ⟨hS, e⟩ | ⟨hS, e⟩ <;> rw [e]
  · rw [if_pos hS]
    rfl
  · rw [if_neg hS]

theorem confirmHeaderEdge_eq (p : Params) (r : Regs) :
    confirmHeaderEdge p r =
      if r.hdr.toNat = 7 then
        { r with hdr := r.hdr + 1, state := if p.S = 0 then .bitSample else .bitSettle, cnt := 0 }
      else { r with hdr := r.hdr + 1, state := .hdrWait, cnt := 0 } := by
  rcases confirmHeaderEdge_cases p r with ⟨h7, e⟩ | ⟨h7, e⟩ <;> rw [e]
  · rw [if_pos h7, settleThen_eq]
    rfl
  · rw [if_neg h7]
    rfl

theorem rowEnd_eq (p : Params) (timedOut : Bool) (r : Regs) :
    rowEnd p timedOut r =
      if r.rowpar = true ∨ r.tof = true ∨ timedOut = true then
        { r with state := .idle, cnt := 0, result := .rowParityError, done := true }
      else
        { r with
          row := r.row + 1, col := 0, rowpar := false
          state := if p.S = 0 then .bitSample else .bitSettle, cnt := 0 } := by
  rcases rowEnd_cases p timedOut r with ⟨hfails, e⟩ | ⟨hrowpar, htof, hto, e⟩ <;> rw [e]
  · rw [if_pos hfails]
    rfl
  · rw [if_neg (by simp [hrowpar, htof, hto]), settleThen_eq]
    rfl

/-- Which of columns 0 to 3 is odd is asked of all four alike (R201, R205). -/
theorem someColumnOdd_iff_exists (r : Regs) : someColumnOdd r = true ↔ ∃ c : Fin 4, r.colpar[c.val] = true := by
  simp [someColumnOdd_iff, Fin.exists_fin_succ]

/-- The result of the final check (R201). -/
def finalResult (timedOut : Bool) (r : Regs) : ResultCode :=
  if r.tof = true ∨ timedOut = true then .timeout
  else if (∃ c : Fin 4, r.colpar[c.val] = true) then .columnParityError
  else .ok

theorem finalCheck_eq (timedOut : Bool) (r : Regs) : finalCheck timedOut r = finish (finalResult timedOut r) r := by
  unfold finalResult
  rcases finalCheck_cases timedOut r with ⟨hto, e⟩ | ⟨htof, hto, hodd, e⟩ | ⟨htof, hto, heven, e⟩ <;> rw [e]
  · rw [if_pos hto]
  · rw [if_neg (by simp [htof, hto]), if_pos ((someColumnOdd_iff_exists r).mp hodd)]
  · rw [if_neg (by simp [htof, hto]), if_neg (by simp [← someColumnOdd_iff_exists, heven])]

/-- The end of a column that has to be checked, by the row it lies in (R175, R177). -/
theorem columnEnd_of_checked {timedOut : Bool} (h : timedOut = true ∨ 4 ≤ r.col.toNat) :
    columnEnd p timedOut r = if r.row.toNat ≤ 9 then rowEnd p timedOut r else finalCheck timedOut r := by
  rcases columnEnd_cases p timedOut r with ⟨hto, hcol, -⟩ | ⟨-, hrow, e⟩ | ⟨-, hrow, e⟩
  · rcases h with h | h
    · simp [hto] at h
    · omega
  · rw [e, if_pos hrow]
  · rw [e, if_neg (by omega)]

theorem dataTimeout_eq (p : Params) (r : Regs) :
    dataTimeout p r =
      finish (if r.row.toNat ≤ 9 then .rowParityError else .timeout) { r with tof := true } := by
  rw [dataTimeout, columnEnd_of_checked (.inl rfl)]
  split
  · rw [rowEnd_eq, if_pos (.inr (.inr rfl))]
    rfl
  · rw [finalCheck_eq, finalResult, if_pos (.inr rfl)]

end Sys2Proof.Machine

open Sys2Proof Sys2Proof.Machine

/-- Settles O7: the wait for a low line, with the sync check behind it and NoCarrier at its end. -/
theorem idleWaitPollsForLow : Obligations.IdleWaitPollsForLow := fun line s =>
  congrArg (fun r => Host.Outcome.next (s.setRegs r))
    (waitForLow_eq s.params .syncCheck .noCarrier line (clearDone s.regs))

/-- Settles O8: the three settle states run the same operation, each with its own target. -/
theorem settleStatesCountTicks : Obligations.SettleStatesCountTicks := by
  intro _ s
  have htick (x : SettleTarget) : Host.Outcome.next (s.tickWith (settleStep s.params x)) = _ :=
    congrArg (fun r => Host.Outcome.next (ρ := Refusal) (φ := Fault) (s.setRegs r))
      (settleStep_eq s.params x (clearDone s.regs))
  exact ⟨htick .syncCheck, htick .hdrCheck, htick .bitSample⟩

/-- Settles O9: by the level that is read. -/
theorem syncCheckNeedsHigh : Obligations.SyncCheckNeedsHigh := by
  intro line s
  cases line with
  | true => rfl
  | false => rfl

/-- Settles O10: the wait for a low line, with the header check behind it and HeaderTimeout at its end. -/
theorem hdrWaitPollsForLow : Obligations.HdrWaitPollsForLow := fun line s =>
  congrArg (fun r => Host.Outcome.next (s.setRegs r))
    (waitForLow_eq s.params .hdrCheck .headerTimeout line (clearDone s.regs))

/-- Settles O11: a low check is `finish`, a high one counts the edge. -/
theorem hdrCheckCountsEdges : Obligations.HdrCheckCountsEdges := by
  intro line s
  cases line with
  | true =>
    exact congrArg (fun r => Host.Outcome.next (s.setRegs r)) (confirmHeaderEdge_eq s.params (clearDone s.regs))
  | false => rfl

/-- Settles O13: what a sample does to each column's parity and to each byte. -/
theorem bitSampleFoldsTheBit : Obligations.BitSampleFoldsTheBit := fun line s =>
  ⟨colparAfter line s.regs, idbufAfter line s.regs, rfl, getElem_colparAfter line s.regs,
    getElem_idbufAfter line s.regs⟩

/-- Settles O16: the row-end check and the final check on the registers with `done` cleared. -/
theorem microOperationsCheckTheRow : Obligations.MicroOperationsCheckTheRow := fun timedOut s =>
  ⟨congrArg (fun r => Host.Outcome.next (s.setRegs r)) (rowEnd_eq s.params timedOut (clearDone s.regs)),
    congrArg (fun r => Host.Outcome.next (s.setRegs r)) (finalCheck_eq timedOut (clearDone s.regs))⟩

end

section
/-! PROOF. One edge of BIT_WAIT (R175 to R177): the poll, what its end runs, and the micro-operations it calls. -/

namespace Sys2Proof.Machine

variable {p : Params} {r : Regs}

theorem waitStep_of_line_eq {level line : Bool} (h : line = level) (onEdge onTimeout : Regs → Regs) :
    waitStep p level line onEdge onTimeout r =
      if r.cnt.toNat + 1 = p.T then onTimeout r else { r with cnt := r.cnt + 1 } := by
  rcases waitStep_cases p level line onEdge onTimeout r with ⟨hne, -⟩ | ⟨-, hT, e⟩ | ⟨-, hT, e⟩
  · exact absurd h hne
  · rw [e, if_pos hT]
  · rw [e, if_neg hT]

theorem finalCheck_false_eq (r : Regs) :
    finalCheck false r =
      if r.tof = true then { r with state := .idle, cnt := 0, result := .timeout, done := true }
      else if (∃ c : Fin 4, r.colpar[c.val] = true) then
        { r with state := .idle, cnt := 0, result := .columnParityError, done := true }
      else { r with state := .idle, cnt := 0, result := .ok, done := true } := by
  simp only [finalCheck_eq, finalResult, Bool.false_eq_true, or_false, apply_ite (finish · r)]
  rfl

/-- The end of a column by an edge: the next column, the row-end check or the final check (R175). -/
theorem columnEnd_false_eq (p : Params) (r : Regs) :
    columnEnd p false r =
      if r.col.toNat ≤ 3 then
        { r with col := r.col + 1, state := if p.S = 0 then .bitSample else .bitSettle, cnt := 0 }
      else if r.row.toNat ≤ 9 then
        if r.rowpar = true ∨ r.tof = true then
          { r with state := .idle, cnt := 0, result := .rowParityError, done := true }
        else
          { r with
            row := r.row + 1, col := 0, rowpar := false
            state := if p.S = 0 then .bitSample else .bitSettle, cnt := 0 }
      else if r.tof = true then { r with state := .idle, cnt := 0, result := .timeout, done := true }
      else if (∃ c : Fin 4, r.colpar[c.val] = true) then
        { r with state := .idle, cnt := 0, result := .columnParityError, done := true }
      else { r with state := .idle, cnt := 0, result := .ok, done := true } := by
  by_cases hcol : r.col.toNat ≤ 3
  · rw [if_pos hcol, columnEnd_of_col_le hcol, settleThen_eq]
    rfl
  · rw [if_neg hcol, columnEnd_of_checked (.inr (by omega)), rowEnd_eq, finalCheck_false_eq]
    simp only [Bool.false_eq_true, or_false]

/-- A poll of a data wait that sees no edge counts, or ends the decode as its row asks (R175, R177). -/
theorem dataPoll_eq (p : Params) (r : Regs) :
    (if r.cnt.toNat + 1 = p.T then dataTimeout p r else { r with cnt := r.cnt + 1 }) =
      if r.cnt.toNat + 1 = p.T then
        { r with
          tof := true, state := .idle, cnt := 0
          result := if r.row.toNat ≤ 9 then .rowParityError else .timeout, done := true }
      else { r with cnt := r.cnt + 1 } := by
  rw [dataTimeout_eq]
  rfl

theorem exec_bitWait_of_line_eq {s : State} {line : Bool} (h : line = s.regs.dat) :
    exec (.bitWait line) s = .next (s.tickWith fun r =>
      if r.cnt.toNat + 1 = s.params.T then dataTimeout s.params r else { r with cnt := r.cnt + 1 }) :=
  congrArg (fun regs => Host.Outcome.next (s.setRegs regs))
    (waitStep_of_line_eq (r := clearDone s.regs) h (columnEnd s.params false) (dataTimeout s.params))

/-- The row-end check and the final check are run on the registers with the timeout already noted in `tof`. -/
theorem exec_bitWait_of_checked {s : State} {line timedOut : Bool}
    (h : timedOut = false ∧ line ≠ s.regs.dat ∧ 4 ≤ s.regs.col.toNat ∨
      timedOut = true ∧ line = s.regs.dat ∧ s.regs.cnt.toNat + 1 = s.params.T) :
    exec (.bitWait line) s =
      .next ((s.setRegs { s.regs with tof := s.regs.tof || timedOut }).tickWith fun r =>
        if r.row.toNat ≤ 9 then rowEnd s.params timedOut r else finalCheck timedOut r) := by
  rcases h with ⟨rfl, hline, hcol⟩ | ⟨rfl, hline, hT⟩
  · have hcol' : 4 ≤ (clearDone s.regs).col.toNat := hcol
    rw [exec_bitWait_of_line_ne hline, State.tickWith, columnEnd_of_checked (.inr hcol'), Bool.or_false]
    rfl
  · have hT' : (clearDone s.regs).cnt.toNat + 1 = s.params.T := hT
    rw [exec_bitWait_of_line_eq hline, State.tickWith, if_pos hT', dataTimeout, columnEnd_of_checked (.inl rfl),
      Bool.or_true]
    rfl

end Sys2Proof.Machine

open Sys2Proof Sys2Proof.Machine

/-- Settles O14: an edge ends the column, the T-th poll without one raises `tof` and ends the decode, and every other
poll counts. -/
theorem bitWaitEndsTheColumn : Obligations.BitWaitEndsTheColumn := by
  intro line s r next
  by_cases hline : line ≠ r.dat
  · rw [exec_bitWait_of_line_ne hline, if_pos hline]
    exact congrArg (fun regs => Host.Outcome.next (s.setRegs regs)) (columnEnd_false_eq s.params (clearDone r))
  · rw [exec_bitWait_of_line_eq (not_not.mp hline), if_neg hline]
    exact congrArg (fun regs => Host.Outcome.next (s.setRegs regs)) (dataPoll_eq s.params (clearDone r))

/-- Settles O17: both checks are run on the registers that the micro-operation's own row is given. -/
theorem bitWaitCallsItsMicroOperations : Obligations.BitWaitCallsItsMicroOperations := by
  intro line timedOut s h s'
  have hend := exec_bitWait_of_checked h
  refine ⟨fun hrow => ?_, fun hrow => ?_⟩
  · have hrow' : (clearDone s'.regs).row.toNat ≤ 9 := hrow
    exact hend.trans (congrArg (fun regs => Host.Outcome.next (s'.setRegs regs)) (if_pos hrow'))
  · have hrow' : ¬ (clearDone s'.regs).row.toNat ≤ 9 := by
      change ¬ s.regs.row.toNat ≤ 9
      omega
    exact hend.trans (congrArg (fun regs => Host.Outcome.next (s'.setRegs regs)) (if_neg hrow'))

end

section
/-! PROOF. Everything that an edge of a busy state can do (R120, R122, R140 to R146, R170 to R177, R200, R201), said
once as a relation between the registers before and after it. -/

namespace Sys2Proof.Machine

variable {p : Params} {r r' : Regs} {line : Bool}

/-! ## What `settleThen` leaves -/

@[simp] theorem settleThen_cnt (x : SettleTarget) : (settleThen p x r).cnt = 0 := by rw [settleThen_eq]
@[simp] theorem settleThen_hdr (x : SettleTarget) : (settleThen p x r).hdr = r.hdr := by rw [settleThen_eq]
@[simp] theorem settleThen_row (x : SettleTarget) : (settleThen p x r).row = r.row := by rw [settleThen_eq]
@[simp] theorem settleThen_col (x : SettleTarget) : (settleThen p x r).col = r.col := by rw [settleThen_eq]
@[simp] theorem settleThen_idbuf (x : SettleTarget) : (settleThen p x r).idbuf = r.idbuf := by rw [settleThen_eq]
@[simp] theorem settleThen_result (x : SettleTarget) : (settleThen p x r).result = r.result := by rw [settleThen_eq]
@[simp] theorem settleThen_done (x : SettleTarget) : (settleThen p x r).done = r.done := by rw [settleThen_eq]

/-- A settle state lies in the part of the decode that its target lies in. -/
@[simp] theorem settleThen_state_isBit (x : SettleTarget) : (settleThen p x r).state.isBit = x.state.isBit := by
  obtain ⟨-, -, -, -, -, hbit, -, -⟩ := x.settleState_kinds
  rcases settleThen_cases p x r with ⟨-, e⟩ | ⟨-, e⟩ <;> rw [e]
  · rfl
  · exact hbit

/-! ## The edges of a decode -/

/-- The level that the polls of a wait read while it goes on (R140, R144, R175). -/
def Regs.waitedLevel (r : Regs) : Bool := if r.state = .bitWait then r.dat else true

/-- The edges of a busy state, with `done` cleared in the registers `r` before the operation. -/
inductive BusyEdge (p : Params) (line : Bool) (r : Regs) : Regs → Prop where
  | poll (hwait : r.state.isWait = true) (hline : line = r.waitedLevel) (hT : r.cnt.toNat + 1 ≠ p.T) :
      BusyEdge p line r { r with cnt := r.cnt + 1 }
  | settleTick (x : SettleTarget) (hf : r.state = x.settleState) (hS : r.cnt.toNat + 1 ≠ p.S) :
      BusyEdge p line r { r with cnt := r.cnt + 1 }
  | settleEnd (x : SettleTarget) (hf : r.state = x.settleState) (hS : r.cnt.toNat + 1 = p.S) :
      BusyEdge p line r (enter x.state r)
  | carrierEdge (hf : r.state = .idleWait) (hline : line = false) :
      BusyEdge p line r (settleThen p .syncCheck r)
  | noCarrier (hf : r.state = .idleWait) (hline : line = true) (hT : r.cnt.toNat + 1 = p.T) :
      BusyEdge p line r (finish .noCarrier r)
  | syncHigh (hf : r.state = .syncCheck) (hline : line = true) :
      BusyEdge p line r (enter .hdrWait r)
  | syncLow (hf : r.state = .syncCheck) (hline : line = false) :
      BusyEdge p line r (finish .framingError r)
  | headerEdge (hf : r.state = .hdrWait) (hline : line = false) :
      BusyEdge p line r (settleThen p .hdrCheck r)
  | headerTimeout (hf : r.state = .hdrWait) (hline : line = true) (hT : r.cnt.toNat + 1 = p.T) :
      BusyEdge p line r (finish .headerTimeout r)
  | headerCounted (hf : r.state = .hdrCheck) (hline : line = true) (hhdr : r.hdr.toNat ≠ 7) :
      BusyEdge p line r (enter .hdrWait { r with hdr := r.hdr + 1 })
  | headerLocked (hf : r.state = .hdrCheck) (hline : line = true) (hhdr : r.hdr.toNat = 7) :
      BusyEdge p line r (settleThen p .bitSample { r with hdr := r.hdr + 1 })
  | headerLow (hf : r.state = .hdrCheck) (hline : line = false) :
      BusyEdge p line r (finish .framingError r)
  | sample (hf : r.state = .bitSample) :
      BusyEdge p line r (sampleBit line r)
  | nextColumn (hf : r.state = .bitWait) (hline : line ≠ r.dat) (hcol : r.col.toNat ≤ 3) :
      BusyEdge p line r (settleThen p .bitSample { r with col := r.col + 1 })
  | nextRow (hf : r.state = .bitWait) (hline : line ≠ r.dat) (hcol : 4 ≤ r.col.toNat) (hrow : r.row.toNat ≤ 9)
      (heven : r.rowpar = false) :
      BusyEdge p line r (settleThen p .bitSample { r with row := r.row + 1, col := 0, rowpar := false })
  | rowRefused (hf : r.state = .bitWait) (hline : line ≠ r.dat) (hcol : 4 ≤ r.col.toNat) (hrow : r.row.toNat ≤ 9)
      (hodd : r.rowpar = true ∨ r.tof = true) :
      BusyEdge p line r (finish .rowParityError r)
  | frameChecked (hf : r.state = .bitWait) (hline : line ≠ r.dat) (hcol : 4 ≤ r.col.toNat) (hrow : 10 ≤ r.row.toNat) :
      BusyEdge p line r (finish (finalResult false r) r)
  | dataTimeout (hf : r.state = .bitWait) (hline : line = r.dat) (hT : r.cnt.toNat + 1 = p.T) :
      BusyEdge p line r
        (finish (if r.row.toNat ≤ 9 then .rowParityError else .timeout) { r with tof := true })
  | recover (k : Fin 6) (hf : r.state = .unused k) :
      BusyEdge p line r (finish .none r)

theorem settleStep_busyEdge {x : SettleTarget} (hf : r.state = x.settleState) :
    BusyEdge p line r (settleStep p x r) := by
  rcases settleStep_cases p x r with ⟨hS, e⟩ | ⟨hS, e⟩ <;> rw [e]
  · exact .settleEnd x hf hS
  · exact .settleTick x hf hS

theorem waitStep_busyEdge {level : Bool} {onEdge onTimeout : Regs → Regs} (hwait : r.state.isWait = true)
    (hlevel : level = r.waitedLevel) (hedge : line ≠ level → BusyEdge p line r (onEdge r))
    (htimeout : line = level → r.cnt.toNat + 1 = p.T → BusyEdge p line r (onTimeout r)) :
    BusyEdge p line r (waitStep p level line onEdge onTimeout r) := by
  rcases waitStep_cases p level line onEdge onTimeout r with ⟨hline, e⟩ | ⟨hline, hT, e⟩ | ⟨hline, hT, e⟩ <;> rw [e]
  · exact hedge hline
  · exact htimeout hline hT
  · exact .poll hwait (hline.trans hlevel) hT

theorem confirmHeaderEdge_busyEdge (hf : r.state = .hdrCheck) : BusyEdge p true r (confirmHeaderEdge p r) := by
  rcases confirmHeaderEdge_cases p r with ⟨hhdr, e⟩ | ⟨hhdr, e⟩ <;> rw [e]
  · exact .headerLocked hf rfl hhdr
  · exact .headerCounted hf rfl hhdr

theorem columnEnd_busyEdge (hf : r.state = .bitWait) (hline : line ≠ r.dat) :
    BusyEdge p line r (columnEnd p false r) := by
  rcases columnEnd_cases p false r with ⟨-, hcol, e⟩ | ⟨hend, hrow, e⟩ | ⟨hend, hrow, e⟩ <;> rw [e]
  · exact .nextColumn hf hline hcol
  · have hcol : 4 ≤ r.col.toNat := by simpa using hend
    rcases rowEnd_cases p false r with ⟨hodd, e'⟩ | ⟨heven, -, -, e'⟩ <;> rw [e']
    · exact .rowRefused hf hline hcol hrow (by simpa using hodd)
    · exact .nextRow hf hline hcol hrow heven
  · have hcol : 4 ≤ r.col.toNat := by simpa using hend
    rw [finalCheck_eq]
    exact .frameChecked hf hline hcol hrow

theorem edgeOp_busyEdge (hf : r.state ≠ .idle) (start line : Bool) :
    BusyEdge p line r (edgeOp p start line r.state r) := by
  cases hstate : r.state with
  | idle => exact absurd hstate hf
  | idleWait =>
    exact waitStep_busyEdge (by simp [hstate]) (by simp [Regs.waitedLevel, hstate])
      (fun hline => .carrierEdge hstate (by simpa using hline)) (fun hline hT => .noCarrier hstate hline hT)
  | syncSettle => exact settleStep_busyEdge (x := .syncCheck) hstate
  | syncCheck =>
    cases line with
    | true => exact .syncHigh hstate rfl
    | false => exact .syncLow hstate rfl
  | hdrWait =>
    exact waitStep_busyEdge (by simp [hstate]) (by simp [Regs.waitedLevel, hstate])
      (fun hline => .headerEdge hstate (by simpa using hline)) (fun hline hT => .headerTimeout hstate hline hT)
  | hdrSettle => exact settleStep_busyEdge (x := .hdrCheck) hstate
  | hdrCheck =>
    cases line with
    | true => exact confirmHeaderEdge_busyEdge hstate
    | false => exact .headerLow hstate rfl
  | bitSettle => exact settleStep_busyEdge (x := .bitSample) hstate
  | bitSample => exact .sample hstate
  | bitWait =>
    refine waitStep_busyEdge (by simp [hstate]) (by simp [Regs.waitedLevel, hstate])
      (fun hline => columnEnd_busyEdge hstate hline) (fun hline hT => ?_)
    rw [dataTimeout_eq]
    exact .dataTimeout hstate hline hT
  | unused k => exact .recover k hstate

theorem edgeRegs_busyEdge {w : InputWord} (hrst : w.rst = false) (hf : r.state ≠ .idle) :
    BusyEdge p w.line (clearDone r) (edgeRegs p w r) := by
  rw [edgeRegs_of_not_rst hrst]
  exact edgeOp_busyEdge (r := clearDone r) hf w.start w.line

/-- The step of a busy state without `rst`. -/
theorem exists_busyEdge_of_step {s t : State} (hst : step s = .next t) (hrst : s.inputWord.rst = false)
    (hf : s.regs.state ≠ .idle) :
    ∃ r', BusyEdge s.params s.inputWord.line (clearDone s.regs) r' ∧ t = s.passEdge.setRegs r' :=
  ⟨_, edgeRegs_busyEdge hrst hf, (step_next_iff s t).mp hst⟩

/-- The step of IDLE without `rst`: an accepted START begins a decode, and otherwise only `done` changes (R102, R103). -/
theorem eq_of_step_idle {s t : State} (hst : step s = .next t) (hrst : s.inputWord.rst = false)
    (hf : s.regs.state = .idle) :
    t = s.passEdge.setRegs
      (if s.inputWord.start = true then beginDecode (clearDone s.regs) else clearDone s.regs) := by
  rw [(step_next_iff s t).mp hst, edgeRegs_of_not_rst hrst, hf]
  cases s.inputWord.start <;> rfl

/-! ## What every edge of a decode keeps -/

/-- R21: `cnt` is 0 after every edge but those that count in the same state. -/
theorem BusyEdge.cnt_eq_zero (h : BusyEdge p line r r') (hne : r'.state ≠ r.state) : r'.cnt = 0 := by
  cases h with
  | poll => exact absurd rfl hne
  | settleTick => exact absurd rfl hne
  | sample => rfl
  | _ => simp

/-- R51: the buffer is left alone by every edge but a sample. -/
theorem BusyEdge.idbuf_eq (h : BusyEdge p line r r') :
    r'.idbuf = r.idbuf ∨ r.state = .bitSample ∧ r'.idbuf = idbufAfter line r := by
  cases h with
  | sample hf => exact .inr ⟨hf, rfl⟩
  | _ => exact .inl (by simp)

/-- R111: no edge of a decode enters the carrier wait. -/
theorem BusyEdge.state_eq_idleWait (h : BusyEdge p line r r') (hr' : r'.state = .idleWait) : r.state = .idleWait := by
  have hsettle (x : SettleTarget) (q : Regs) : (settleThen p x q).state ≠ .idleWait := fun h => by
    have hwait := settleThen_state_isWait (p := p) (r := q) x
    rw [h] at hwait
    simp at hwait
  cases h with
  | poll => exact hr'
  | settleTick => exact hr'
  | settleEnd x => cases x <;> simp [SettleTarget.state] at hr'
  | carrierEdge | headerEdge | headerLocked | nextColumn | nextRow => exact absurd hr' (hsettle _ _)
  | sample => simp [sampleBit] at hr'
  | _ => simp at hr'

/-- R147: the sampler is entered by the eighth header edge and in no other way. -/
theorem BusyEdge.headerLocked_of_isBit (h : BusyEdge p line r r') (hr : r.state.isBit = false)
    (hr' : r'.state.isBit = true) :
    r.state = .hdrCheck ∧ line = true ∧ r.hdr.toNat = 7 ∧
      r' = settleThen p .bitSample { r with hdr := r.hdr + 1 } := by
  cases h with
  | headerLocked hf hline hhdr => exact ⟨hf, hline, hhdr, rfl⟩
  | poll => simp [hr] at hr'
  | settleTick => simp [hr] at hr'
  | settleEnd x hf =>
    obtain ⟨-, -, -, -, -, hbit, -, -⟩ := x.settleState_kinds
    simp [← hbit, ← hf, hr] at hr'
  | sample hf | nextColumn hf | nextRow hf => simp [hf] at hr
  | carrierEdge | headerEdge => simp [SettleTarget.state] at hr'
  | _ => simp at hr'

end Sys2Proof.Machine

open Sys2Proof Sys2Proof.Machine

/-- Settles O37: an edge of a decode that leaves the state clears the counter, and so do reset and START. -/
theorem everyTransitionClearsTheCounter : Obligations.EveryTransitionClearsTheCounter := by
  intro s t hst hne
  cases hrst : s.inputWord.rst with
  | true =>
    rw [(step_next_iff s t).mp hst, edgeRegs_of_rst hrst]
    rfl
  | false =>
    by_cases hf : s.regs.state = .idle
    · obtain rfl := eq_of_step_idle hst hrst hf
      by_cases hstart : s.inputWord.start = true <;> simp [hstart] at hne ⊢
    · obtain ⟨r', hedge, rfl⟩ := exists_busyEdge_of_step hst hrst hf
      exact hedge.cnt_eq_zero hne

/-- Settles O38: a decode's edge leaves the buffer alone unless it samples, and a sample changes the byte of its row
alone. -/
theorem identifierBufferWriters : Obligations.IdentifierBufferWriters := by
  intro s t hst hrst j hne
  by_cases hf : s.regs.state = .idle
  · obtain rfl := eq_of_step_idle hst hrst hf
    by_cases hstart : s.inputWord.start = true
    · exact .inl ⟨hf, hstart, by simp [hstart]⟩
    · simp [hstart] at hne
  · obtain ⟨r', hedge, rfl⟩ := exists_busyEdge_of_step hst hrst hf
    rw [setRegs_regs] at hne
    rcases hedge.idbuf_eq with hkept | ⟨hsample, hwritten⟩
    · simp [hkept] at hne
    · rw [hwritten, getElem_idbufAfter] at hne
      split at hne
      · rename_i hdata
        exact .inr ⟨hsample, hdata.1, hdata.2.1, hdata.2.2.symm⟩
      · exact absurd rfl hne

/-- Settles O12: of the edges of a decode only the eighth high header check leads into the sampler. -/
theorem onlyTheEighthHighCheckLocks : Obligations.OnlyTheEighthHighCheckLocks := by
  intro s t hst hs ht
  cases hrst : s.inputWord.rst with
  | true =>
    rw [(step_next_iff s t).mp hst, edgeRegs_of_rst hrst] at ht
    simp at ht
  | false =>
    by_cases hf : s.regs.state = .idle
    · obtain rfl := eq_of_step_idle hst hrst hf
      by_cases hstart : s.inputWord.start = true <;> simp [hstart, hf] at ht
    · obtain ⟨r', hedge, rfl⟩ := exists_busyEdge_of_step hst hrst hf
      obtain ⟨hcheck, hline, hhdr, rfl⟩ := hedge.headerLocked_of_isBit hs ht
      have hhdr7 : s.regs.hdr = 7 := BitVec.eq_of_toNat_eq hhdr
      refine ⟨hcheck, rfl, hline, hhdr, ?_, by simp, by simp, by simp⟩
      simp [hhdr7]

/-- Settles O32: outside IDLE the operation of an edge does not read `start`, and no edge of a decode enters the
carrier wait. -/
theorem startIsIgnoredWhileBusy : Obligations.StartIsIgnoredWhileBusy := by
  refine ⟨fun s line rest hf => ?_, fun s t hf hrst hst ht => ?_⟩
  · have hregs (start : Bool) : edgeRegs s.params (InputWord.ofBits false start line) s.regs =
        edgeOp s.params false line s.regs.state (clearDone s.regs) := by
      rw [edgeRegs_of_not_rst (InputWord.rst_ofBits _ _ _), InputWord.start_ofBits, InputWord.line_ofBits,
        edgeOp_start_of_ne_idle hf]
    rw [step_eq, step_eq, inputWord_cons rfl, inputWord_cons rfl, hregs true, hregs false]
    rfl
  · obtain ⟨r', hedge, rfl⟩ := exists_busyEdge_of_step hst hrst hf
    exact hedge.state_eq_idleWait ht

/-- Settles O33: the completion leaves IDLE, whose next edge begins a decode or only clears `done`. -/
theorem completionIsFollowedByTheNextStart : Obligations.CompletionIsFollowedByTheNextStart := by
  intro s t u _ _ _ hidle hrst hst
  obtain rfl := eq_of_step_idle hst hrst hidle
  by_cases hstart : t.inputWord.start = true
  · rw [if_pos hstart, if_pos hstart]
    exact ⟨rfl, rfl, idOut_of_ne_ok (by simp)⟩
  · rw [if_neg hstart, if_neg hstart]
    rfl

/-- Settles O35: the reset comes before every operation, the edge before the timeout, and each check lists its causes
in the order of the spec; `done` rises only where the block enters IDLE. -/
theorem prioritiesAtOneEdge : Obligations.PrioritiesAtOneEdge := by
  refine ⟨fun s hrst => ?_, fun s t _ => ⟨fun hst => ?_, fun hst => ?_, fun hst => ?_⟩, fun s t _ hst => ?_,
    fun s t _ hst => ?_, fun s t _ hrst _ hst hdone => ?_⟩
  · rw [step_eq, edgeRegs_of_rst hrst]
  · obtain rfl : s.tickWith (settleThen s.params .syncCheck) = t := Host.Outcome.next.inj hst
    exact settleThen_state_ne_idle .syncCheck
  · obtain rfl : s.tickWith (settleThen s.params .hdrCheck) = t := Host.Outcome.next.inj hst
    exact settleThen_state_ne_idle .hdrCheck
  · rw [exec_bitWait_of_line_ne (Bool.not_ne_self s.regs.dat)] at hst
    obtain rfl := Host.Outcome.next.inj hst
    exact columnEnd_tof false
  · obtain rfl : s.tickWith (rowEnd s.params true) = t := Host.Outcome.next.inj hst
    rw [tickWith_regs, rowEnd_eq, if_pos (.inr (.inr rfl))]
  · obtain rfl : s.tickWith (finalCheck true) = t := Host.Outcome.next.inj hst
    rw [tickWith_regs, finalCheck_eq, finalResult, if_pos (.inr rfl), finish_result]
  · exact ((doneIsAOneCyclePulse s t hst hrst).mp hdone).2

end

section
/-! PROOF. The nine causes of a completion (R220), and the one of them that is OK (R204). -/

namespace Sys2Proof.Machine

variable {p : Params} {r r' : Regs} {line : Bool}

theorem Regs.Inv.result_done_tof (h : r.Inv p) (hf : r.state ≠ .idle) :
    r.result = .none ∧ r.done = false ∧ r.tof = false := by
  obtain ⟨-, -, -, -, -, -, -, -, -, -, -, hbusy⟩ := h
  exact hbusy hf

theorem Regs.Inv.row_eq_ten (h : r.Inv p) (hrow : 10 ≤ r.row.toNat) : r.row = 10 :=
  BitVec.eq_of_toNat_eq (le_antisymm h.row_le hrow)

theorem Regs.Inv.col_eq_four (h : r.Inv p) (hcol : 4 ≤ r.col.toNat) : r.col = 4 :=
  BitVec.eq_of_toNat_eq (le_antisymm h.col_le hcol)

theorem Regs.Inv.not_unused (h : r.Inv p) (k : Fin 6) : r.state ≠ .unused k := by
  obtain ⟨hunused, -⟩ := h
  intro hf
  simp [hf] at hunused

/-- The final check by a data edge, without an earlier timeout (R201). -/
theorem finalResult_cases (htof : r.tof = false) :
    (∃ c : Fin 4, r.colpar[c.val] = true) ∧ finalResult false r = .columnParityError ∨
      (∀ c : Fin 4, r.colpar[c.val] = false) ∧ finalResult false r = .ok := by
  rw [finalResult, if_neg (by simp [htof])]
  by_cases hodd : ∃ c : Fin 4, r.colpar[c.val] = true
  · exact .inl ⟨hodd, if_pos hodd⟩
  · exact .inr ⟨by simpa using hodd, if_neg hodd⟩

/-- R204: a decode that ends with OK does so by the final check of BIT_WAIT. -/
theorem BusyEdge.frameChecked_of_ok (h : BusyEdge p line r r') (hr : r.result ≠ .ok) (hr' : r'.result = .ok) :
    r.state = .bitWait ∧ 4 ≤ r.col.toNat ∧ 10 ≤ r.row.toNat ∧ finalResult false r = .ok ∧ r' = finish .ok r := by
  cases h with
  | frameChecked hf _ hcol hrow =>
    have hok : finalResult false r = .ok := hr'
    exact ⟨hf, hcol, hrow, hok, by rw [hok]⟩
  | dataTimeout =>
    rw [finish_result] at hr'
    split at hr' <;> nomatch hr'
  | poll | settleTick | settleEnd | sample | syncHigh | headerCounted => exact absurd hr' hr
  | carrierEdge | headerEdge | headerLocked | nextColumn | nextRow =>
    rw [settleThen_result] at hr'
    exact absurd hr' hr
  | _ => simp at hr'

end Sys2Proof.Machine

open Sys2Proof Sys2Proof.Machine

/-- Settles O36: of the edges of a decode, those that end in `finish`; the invariant fixes the row and column of the
checks and leaves the recovery from an unused code out. -/
theorem everyResultHasItsCause : Obligations.EveryResultHasItsCause := by
  intro s t hinv hf hrst hst hidle line timeout edge
  obtain ⟨r', hedge, rfl⟩ := exists_busyEdge_of_step hst hrst hf
  obtain ⟨-, -, htof⟩ := hinv.result_done_tof hf
  rw [setRegs_regs] at hidle
  cases hedge with
  | poll | settleTick => exact absurd hidle hf
  | settleEnd x =>
    obtain ⟨-, -, -, htarget, -⟩ := x.state_kinds
    exact absurd hidle htarget
  | carrierEdge | headerEdge | headerLocked | nextColumn | nextRow => exact absurd hidle (settleThen_state_ne_idle _)
  | syncHigh | headerCounted | sample => nomatch hidle
  | recover k hk => exact absurd hk (hinv.not_unused k)
  | noCarrier hstate hline hT => exact .inl ⟨hstate, hline, hT, rfl⟩
  | syncLow hstate hline => exact .inr (.inl ⟨hstate, hline, rfl⟩)
  | headerLow hstate hline => exact .inr (.inr (.inl ⟨hstate, hline, rfl, rfl⟩))
  | headerTimeout hstate hline hT => exact .inr (.inr (.inr (.inl ⟨hstate, hline, hT, rfl⟩)))
  | dataTimeout hstate hline hT =>
    by_cases hrow : s.regs.row.toNat ≤ 9
    · exact .inr (.inr (.inr (.inr (.inl ⟨hstate, hrow, ⟨hline, hT⟩, if_pos hrow⟩))))
    · exact .inr (.inr (.inr (.inr (.inr (.inr (.inl
        ⟨hstate, hinv.row_eq_ten (by omega), ⟨hline, hT⟩, if_neg hrow⟩))))))
  | rowRefused hstate hline hcol hrow hodd =>
    have hrowpar : s.regs.rowpar = true := by simpa [htof] using hodd
    exact .inr (.inr (.inr (.inr (.inr (.inl ⟨hstate, hrow, hinv.col_eq_four hcol, hline, hrowpar, rfl⟩)))))
  | frameChecked hstate hline hcol hrow =>
    have hrow10 := hinv.row_eq_ten hrow
    have hcol4 := hinv.col_eq_four hcol
    rcases finalResult_cases (r := clearDone s.regs) htof with ⟨hodd, hcode⟩ | ⟨heven, hcode⟩
    · exact .inr (.inr (.inr (.inr (.inr (.inr (.inr (.inl ⟨hstate, hrow10, hcol4, hline, hodd, hcode⟩)))))))
    · exact .inr (.inr (.inr (.inr (.inr (.inr (.inr (.inr ⟨hstate, hrow10, hcol4, hline, heven, hcode⟩)))))))

/-- Settles O48: OK comes from the final check at bit (10, 4), where 55 bits are sampled, the rows 0 to 9 have passed
their checks and the column accumulators are those of the bits; and there a frame with even columns passes. -/
theorem okMeansAParityCleanFrame : Obligations.OkMeansAParityCleanFrame := by
  refine ⟨fun s t bits hinv hcap hf hst hok => ?_, fun s bits hinv hcap hf hlen heven hrst hline => ?_⟩
  · have hrst : s.inputWord.rst = false := by
      by_contra hrst
      rw [(step_next_iff s t).mp hst, edgeRegs_of_rst (by simpa using hrst)] at hok
      simp at hok
    obtain ⟨hresult, -, htof⟩ := hinv.result_done_tof hf
    obtain ⟨r', hedge, rfl⟩ := exists_busyEdge_of_step hst hrst hf
    obtain ⟨hstate, hcol, hrow, hcode, rfl⟩ := hedge.frameChecked_of_ok (by simp [hresult]) hok
    have hcol4 : s.regs.col = 4 := hinv.col_eq_four hcol
    have hrow10 : s.regs.row = 10 := hinv.row_eq_ten hrow
    have hlen : bits.length = 55 := by simpa [hrow10, hcol4] using hcap.length_of_bitWait hstate
    have heven : ∀ c : Fin 4, s.regs.colpar[c.val] = false := by
      rcases finalResult_cases (r := clearDone s.regs) htof with ⟨-, hcode'⟩ | ⟨heven, -⟩
      · simp [hcode'] at hcode
      · exact heven
    obtain ⟨-, -, -, hrows, -, hcolpar, -⟩ := id hcap
    refine ⟨hstate, hlen, fun r hr => ?_, fun c hc => ?_, fun r hr c hc => ?_⟩
    · exact hrows (by simp [show s.regs.state = .bitWait from hstate]) r (by simpa [hrow10] using hr)
    · rw [← hcolpar ⟨c, by omega⟩]
      exact heven ⟨c, hc⟩
    · rw [idOut_of_ok hok]
      exact getLsbD_identifier_of_captured hcap hlen hr hc
  · obtain ⟨-, -, htof⟩ := hinv.result_done_tof (by simp [hf])
    have hplace := hcap.length_of_bitWait hf
    have hrow := hinv.row_le
    have hcol := hinv.col_le
    obtain ⟨-, -, -, -, -, hcolpar, -⟩ := id hcap
    have hcheck : columnEnd s.params false (clearDone s.regs) = finalCheck false (clearDone s.regs) :=
      columnEnd_of_le_row false (by simp; omega) (by simp; omega)
    rw [step_of_bitWait_line_ne hf hrst hline, hcheck, finalCheck_eq_finish_ok (r := clearDone s.regs) htof]
    · rfl
    · intro c
      exact (hcolpar ⟨c.val, by omega⟩).trans (heven c c.isLt)

end

section
/-! PROOF. Column 4 and its parity (R205): an operation that does not read `colpar[4]` commutes with writing it, one
lemma for each shared operation, and a sample computes the new value from the old one alone. -/

namespace Sys2Proof.Machine

variable {p : Params} {r : Regs}

/-- The registers with another parity of column 4. -/
def Regs.withColpar4 (b : Bool) (r : Regs) : Regs := { r with colpar := r.colpar.set 4 b }

/-! ## Operations that do not read the parity of column 4 -/

theorem settleThen_withColpar4 (x : SettleTarget) (b : Bool) :
    settleThen p x (r.withColpar4 b) = (settleThen p x r).withColpar4 b := by
  rw [settleThen_eq, settleThen_eq]
  rfl

theorem settleStep_withColpar4 (x : SettleTarget) (b : Bool) :
    settleStep p x (r.withColpar4 b) = (settleStep p x r).withColpar4 b := by
  simp only [settleStep, apply_ite (Regs.withColpar4 b)]
  rfl

theorem waitStep_withColpar4 {level line b : Bool} {onEdge onTimeout : Regs → Regs}
    (hedge : onEdge (r.withColpar4 b) = (onEdge r).withColpar4 b)
    (htimeout : onTimeout (r.withColpar4 b) = (onTimeout r).withColpar4 b) :
    waitStep p level line onEdge onTimeout (r.withColpar4 b) =
      (waitStep p level line onEdge onTimeout r).withColpar4 b := by
  simp only [waitStep, hedge, htimeout, apply_ite (Regs.withColpar4 b)]
  rfl

theorem confirmHeaderEdge_withColpar4 (b : Bool) :
    confirmHeaderEdge p (r.withColpar4 b) = (confirmHeaderEdge p r).withColpar4 b := by
  rw [confirmHeaderEdge, confirmHeaderEdge, apply_ite (Regs.withColpar4 b), ← settleThen_withColpar4]
  rfl

theorem rowEnd_withColpar4 (timedOut b : Bool) :
    rowEnd p timedOut (r.withColpar4 b) = (rowEnd p timedOut r).withColpar4 b := by
  rw [rowEnd, rowEnd, apply_ite (Regs.withColpar4 b), ← settleThen_withColpar4]
  rfl

/-- The final check asks columns 0 to 3 alone (R201). -/
theorem someColumnOdd_withColpar4 (b : Bool) : someColumnOdd (r.withColpar4 b) = someColumnOdd r := by
  simp [someColumnOdd, Regs.withColpar4]

theorem finalCheck_withColpar4 (timedOut b : Bool) :
    finalCheck timedOut (r.withColpar4 b) = (finalCheck timedOut r).withColpar4 b := by
  simp only [finalCheck, someColumnOdd_withColpar4, apply_ite (Regs.withColpar4 b)]
  rfl

theorem columnEnd_withColpar4 (timedOut b : Bool) :
    columnEnd p timedOut (r.withColpar4 b) = (columnEnd p timedOut r).withColpar4 b := by
  rw [columnEnd, columnEnd, apply_ite (Regs.withColpar4 b), apply_ite (Regs.withColpar4 b),
    ← settleThen_withColpar4, rowEnd_withColpar4, finalCheck_withColpar4]
  rfl

theorem dataTimeout_withColpar4 (b : Bool) :
    dataTimeout p (r.withColpar4 b) = (dataTimeout p r).withColpar4 b :=
  columnEnd_withColpar4 (r := { r with tof := true }) true b

theorem bitWait_withColpar4 (line b : Bool) :
    waitStep p r.dat line (columnEnd p false) (dataTimeout p) (r.withColpar4 b) =
      (waitStep p r.dat line (columnEnd p false) (dataTimeout p) r).withColpar4 b :=
  waitStep_withColpar4 (columnEnd_withColpar4 false b) (dataTimeout_withColpar4 b)

/-! ## The sample -/

/-- A sample in another column leaves the parity of column 4, and one in column 4 adds the bit to it (R174). -/
theorem colparAfter_withColpar4 (line b : Bool) :
    colparAfter line (r.withColpar4 b) =
      (colparAfter line r).set 4 (if r.col.toNat = 4 then b ^^ line else b) := by
  refine Vector.ext fun c hc => ?_
  have hnew : (colparAfter line (r.withColpar4 b))[c] =
      if r.col.toNat = c then (r.colpar.set 4 b)[c] ^^ line else (r.colpar.set 4 b)[c] :=
    getElem_colparAfter line (r.withColpar4 b) ⟨c, hc⟩
  have hold : (colparAfter line r)[c] = if r.col.toNat = c then r.colpar[c] ^^ line else r.colpar[c] :=
    getElem_colparAfter line r ⟨c, hc⟩
  rw [hnew, Vector.getElem_set, Vector.getElem_set, hold]
  by_cases h4 : 4 = c
  · simp [h4]
  · simp [h4]

theorem sampleBit_withColpar4 (line b : Bool) :
    sampleBit line (r.withColpar4 b) =
      (sampleBit line r).withColpar4 (if r.col.toNat = 4 then b ^^ line else b) :=
  congrArg (fun colpar => { sampleBit line r with colpar := colpar }) (colparAfter_withColpar4 line b)

/-- At bit (10, 4) the sampled value reaches `dat`, `rowpar` and `colpar[4]` alone. -/
theorem sampleBit_at_ten_four (hrow : r.row = 10) (hcol : r.col = 4) (a b : Bool) :
    sampleBit b r =
      { sampleBit a r with
        dat := (sampleBit b r).dat, rowpar := (sampleBit b r).rowpar
        colpar := (sampleBit a r).colpar.set 4 (sampleBit b r).colpar[4] } := by
  have hbuf (b : Bool) : idbufAfter b r = r.idbuf := by
    rw [idbufAfter, if_neg (by simp [inDataRow_iff, hrow])]
  have hcolpar : colparAfter b r = (colparAfter a r).set 4 (colparAfter b r)[4] := by
    refine Vector.ext fun c hc => ?_
    rw [Vector.getElem_set]
    split
    · subst c
      rfl
    · have hkept (b : Bool) : (colparAfter b r)[c] = r.colpar[c] :=
        (getElem_colparAfter b r ⟨c, hc⟩).trans (if_neg (by simpa [hcol]))
      rw [hkept, hkept]
  rw [sampleBit, sampleBit, hbuf, hbuf, ← hcolpar]

/-! ## Every edge -/

theorem edgeOp_withColpar4 (start line b : Bool) (f : FsmState) :
    ∃ b', edgeOp p start line f (r.withColpar4 b) = (edgeOp p start line f r).withColpar4 b' := by
  cases f with
  | idle =>
    cases start with
    | true => exact ⟨false, rfl⟩
    | false => exact ⟨b, rfl⟩
  | idleWait => exact ⟨b, waitStep_withColpar4 (settleThen_withColpar4 .syncCheck b) rfl⟩
  | syncSettle => exact ⟨b, settleStep_withColpar4 .syncCheck b⟩
  | syncCheck => cases line <;> exact ⟨b, rfl⟩
  | hdrWait => exact ⟨b, waitStep_withColpar4 (settleThen_withColpar4 .hdrCheck b) rfl⟩
  | hdrSettle => exact ⟨b, settleStep_withColpar4 .hdrCheck b⟩
  | hdrCheck =>
    cases line with
    | true => exact ⟨b, confirmHeaderEdge_withColpar4 b⟩
    | false => exact ⟨b, rfl⟩
  | bitSettle => exact ⟨b, settleStep_withColpar4 .bitSample b⟩
  | bitSample => exact ⟨_, sampleBit_withColpar4 line b⟩
  | bitWait => exact ⟨b, bitWait_withColpar4 (r := r) line b⟩
  | unused k => exact ⟨b, rfl⟩

theorem edgeRegs_withColpar4 (w : InputWord) (b : Bool) :
    ∃ b', edgeRegs p w (r.withColpar4 b) = (edgeRegs p w r).withColpar4 b' := by
  cases hrst : w.rst with
  | true =>
    rw [edgeRegs_of_rst hrst, edgeRegs_of_rst hrst]
    exact ⟨false, rfl⟩
  | false =>
    rw [edgeRegs_of_not_rst hrst, edgeRegs_of_not_rst hrst]
    exact edgeOp_withColpar4 (r := clearDone r) w.start w.line b r.state

theorem step_withColpar4 {s t : State} (hst : step s = .next t) (b : Bool) :
    ∃ b', step (s.setRegs (s.regs.withColpar4 b)) = .next (t.setRegs (t.regs.withColpar4 b')) := by
  obtain ⟨b', hregs⟩ := edgeRegs_withColpar4 (p := s.params) (r := s.regs) s.inputWord b
  refine ⟨b', (step_next_iff _ _).mpr ?_⟩
  rw [(step_next_iff s t).mp hst, setRegs_regs, ← hregs]
  rfl

end Sys2Proof.Machine

open Sys2Proof Sys2Proof.Machine

/-- Settles O19: every operation lets a changed `colpar[4]` reach `colpar[4]` alone, BIT_WAIT without changing it; and
the sample at (10, 4) writes no byte and no other column. -/
theorem column4ParityDecidesNothing : Obligations.Column4ParityDecidesNothing := by
  refine ⟨fun s t b hst => step_withColpar4 hst b, fun line b s t hst => ?_, fun s t u hrow hcol ht hu => ?_⟩
  · obtain rfl := Host.Outcome.next.inj hst
    exact congrArg (fun regs => Host.Outcome.next (s.setRegs regs))
      (bitWait_withColpar4 (r := clearDone s.regs) line b)
  · obtain rfl : s.tickWith (sampleBit false) = t := Host.Outcome.next.inj ht
    obtain rfl : s.tickWith (sampleBit true) = u := Host.Outcome.next.inj hu
    exact congrArg s.setRegs (sampleBit_at_ten_four (r := clearDone s.regs) hrow hcol false true)

end

section
/-! PROOF. Runs of several edges (R124, R148, R179): the registers after `n` edges as a function of `n`, and the
stretches of a run in which only the counter moves. -/

namespace Sys2Proof

@[simp] theorem FsmState.unused_kinds (k : Fin 6) :
    (FsmState.unused k).isWait = false ∧ (FsmState.unused k).isSettle = false ∧
      (FsmState.unused k).isCarrier = false ∧ (FsmState.unused k).isHeader = false ∧
      (FsmState.unused k).isBit = false := ⟨rfl, rfl, rfl, rfl, rfl⟩

end Sys2Proof

namespace Sys2Proof.Machine

variable {p : Params} {r : Regs} {s : State} {a n k : Nat}

/-! ## The registers along a run -/

/-- The registers after `n` edges from `s`. -/
def State.regsAt (s : State) : Nat → Regs
  | 0 => s.regs
  | n + 1 => edgeRegs s.params (s.wordAt n) (s.regsAt n)

theorem regsAt_passEdge (s : State) (k : Nat) :
    (s.passEdge.setRegs (edgeRegs s.params s.inputWord s.regs)).regsAt k = s.regsAt (k + 1) := by
  induction k with
  | zero => rfl
  | succ k ih => rw [State.regsAt, ih, wordAt_setRegs, wordAt_passEdge, setRegs_params, passEdge_params, ← State.regsAt]

theorem runEdges_eq (s : State) (n : Nat) : s.runEdges n = .next ((s.afterEdges n).setRegs (s.regsAt n)) := by
  induction n generalizing s with
  | zero => rfl
  | succ n ih =>
    rw [runEdges_succ (step_eq s), ih, regsAt_passEdge, ← afterEdges_passEdge]
    rfl

/-- No edge reads `done` (R101). -/
theorem edgeRegs_clearDone (p : Params) (w : InputWord) (r : Regs) : edgeRegs p w (clearDone r) = edgeRegs p w r := rfl

theorem regsAt_succ_of_clearDone (h : clearDone (s.regsAt n) = r) :
    s.regsAt (n + 1) = edgeRegs s.params (s.wordAt n) r := by
  rw [← h, edgeRegs_clearDone]
  rfl

/-- The first edge of a decode is the START's (R103). -/
theorem regsAt_one_of_start (hf : s.regs.state = .idle) (hstart : (s.wordAt 0).start = true)
    (hrst : (s.wordAt 0).rst = false) : s.regsAt 1 = beginDecode (clearDone s.regs) := by
  change edgeRegs s.params (s.wordAt 0) s.regs = _
  rw [edgeRegs_of_not_rst hrst, hf, hstart]
  rfl

/-! ## Counting -/

/-- The registers after `k` edges that only count. -/
def Regs.counted (k : Nat) (r : Regs) : Regs := { r with cnt := BitVec.ofNat 16 k, done := false }

theorem counted_zero (h : r.cnt = 0) : r.counted 0 = clearDone r := by
  simp [Regs.counted, clearDone, h]

theorem counted_cnt_toNat (hk : k < 65536) : (r.counted k).cnt.toNat = k := Nat.mod_eq_of_lt hk

theorem counted_succ (k : Nat) (r : Regs) :
    { r.counted k with cnt := (r.counted k).cnt + 1 } = r.counted (k + 1) := by
  simp [Regs.counted, BitVec.ofNat_add]

theorem clearDone_regsAt_of_counts (h0 : clearDone (s.regsAt a) = r.counted 0)
    (hcount : ∀ k < n, edgeRegs s.params (s.wordAt (a + k)) (r.counted k) = r.counted (k + 1)) :
    clearDone (s.regsAt (a + n)) = r.counted n := by
  induction n with
  | zero => exact h0
  | succ n ih =>
    have hn := ih fun k hk => hcount k (by omega)
    rw [← Nat.add_assoc, regsAt_succ_of_clearDone hn, hcount n (Nat.lt_succ_self n)]
    rfl

/-- After the first of the counting edges `done` is 0 too. -/
theorem regsAt_of_counts (h0 : clearDone (s.regsAt a) = r.counted 0) (hn : 1 ≤ n)
    (hcount : ∀ k < n, edgeRegs s.params (s.wordAt (a + k)) (r.counted k) = r.counted (k + 1)) :
    s.regsAt (a + n) = r.counted n := by
  obtain ⟨m, rfl⟩ := Nat.exists_eq_add_of_le' hn
  have hm := clearDone_regsAt_of_counts (n := m) h0 fun k hk => hcount k (by omega)
  rw [← Nat.add_assoc, regsAt_succ_of_clearDone hm, hcount m (Nat.lt_succ_self m)]

/-! ## Polls (R120) -/

theorem edgeOp_poll {line : Bool} (hwait : r.state.isWait = true) (hline : line = r.waitedLevel)
    (hT : r.cnt.toNat + 1 ≠ p.T) (start : Bool) : edgeOp p start line r.state r = { r with cnt := r.cnt + 1 } := by
  cases hstate : r.state with
  | idleWait | hdrWait =>
    have hline' : line = true := by simpa [Regs.waitedLevel, hstate] using hline
    exact (waitStep_of_line_eq hline' _ _).trans ((if_neg hT).trans (by rw [hstate]))
  | bitWait =>
    have hline' : line = r.dat := by simpa [Regs.waitedLevel, hstate] using hline
    exact (waitStep_of_line_eq hline' _ _).trans ((if_neg hT).trans (by rw [hstate]))
  | _ => simp [hstate] at hwait

theorem edgeRegs_poll {w : InputWord} (hrst : w.rst = false) (hwait : r.state.isWait = true)
    (hline : w.line = r.waitedLevel) (hk : k + 1 < p.T) : edgeRegs p w (r.counted k) = r.counted (k + 1) := by
  have hTle : p.T ≤ 65536 := p.T_le
  have hcnt : (r.counted k).cnt.toNat + 1 ≠ p.T := by
    rw [counted_cnt_toNat (by omega)]
    omega
  rw [edgeRegs_of_not_rst hrst, ← counted_succ]
  exact edgeOp_poll (r := r.counted k) hwait hline hcnt w.start

/-- Polls at the waited level, `n` of them from edge `a` on. -/
def State.Polls (s : State) (r : Regs) (a n : Nat) : Prop :=
  ∀ k < n, (s.wordAt (a + k)).rst = false ∧ (s.wordAt (a + k)).line = r.waitedLevel

theorem counts_of_polls (hwait : r.state.isWait = true) (hn : n < s.params.T) (hpolls : s.Polls r a n) :
    ∀ k < n, edgeRegs s.params (s.wordAt (a + k)) (r.counted k) = r.counted (k + 1) := by
  intro k hk
  obtain ⟨hrst, hline⟩ := hpolls k hk
  exact edgeRegs_poll hrst hwait hline (by omega)

/-! ## Settle ticks (R122) -/

theorem edgeOp_settleState (p : Params) (start line : Bool) (x : SettleTarget) :
    edgeOp p start line x.settleState = settleStep p x := by
  cases x <;> rfl

theorem edgeRegs_settle {w : InputWord} {x : SettleTarget} (hrst : w.rst = false) (hf : r.state = x.settleState)
    (hk : k < p.S) :
    edgeRegs p w (r.counted k) = if k + 1 = p.S then enter x.state (clearDone r) else r.counted (k + 1) := by
  have hSle : p.S ≤ 65536 := p.S_le
  have hstate : (r.counted k).state = x.settleState := hf
  have hcnt : (clearDone (r.counted k)).cnt.toNat = k := counted_cnt_toNat (by omega)
  rw [edgeRegs_of_not_rst hrst, hstate, edgeOp_settleState, settleStep_eq, hcnt, ← counted_succ]
  rfl

theorem counts_of_settle {x : SettleTarget} (hf : r.state = x.settleState) (hn : n < s.params.S)
    (hrst : ∀ k < n, (s.wordAt (a + k)).rst = false) :
    ∀ k < n, edgeRegs s.params (s.wordAt (a + k)) (r.counted k) = r.counted (k + 1) := by
  intro k hk
  rw [edgeRegs_settle (hrst k hk) hf (by omega), if_neg (by omega)]

/-- The S-th settle tick leads to the target. -/
theorem regsAt_settle_end {x : SettleTarget} (h0 : clearDone (s.regsAt a) = r.counted 0)
    (hf : r.state = x.settleState) (hS : 1 ≤ s.params.S) (hrst : ∀ k < s.params.S, (s.wordAt (a + k)).rst = false) :
    s.regsAt (a + s.params.S) = enter x.state (clearDone r) := by
  obtain ⟨n, hn⟩ := Nat.exists_eq_add_of_le' hS
  have hcounts := clearDone_regsAt_of_counts (n := n) h0
    (counts_of_settle hf (by omega) fun k hk => hrst k (by omega))
  rw [hn, ← Nat.add_assoc, regsAt_succ_of_clearDone hcounts, edgeRegs_settle (hrst n (by omega)) hf (by omega),
    if_pos hn.symm]

/-- A settle delay of any length, none included, ends at its target with nothing else changed. -/
theorem clearDone_regsAt_settleThen {x : SettleTarget}
    (h0 : clearDone (s.regsAt a) = clearDone (settleThen s.params x r))
    (hrst : ∀ k < s.params.S, (s.wordAt (a + k)).rst = false) :
    clearDone (s.regsAt (a + s.params.S)) = enter x.state (clearDone r) := by
  rcases settleThen_cases s.params x r with ⟨hS, e⟩ | ⟨hS, e⟩
  · rw [hS, Nat.add_zero, h0, e]
    rfl
  · rw [e] at h0
    rw [regsAt_settle_end (r := enter x.settleState r) (h0.trans (counted_zero rfl).symm) rfl hS hrst]
    rfl

end Sys2Proof.Machine

open Sys2Proof Sys2Proof.Machine

/-- Settles O39, by induction on the number of polls. -/
theorem waitsCountTheirPolls : Obligations.WaitsCountTheirPolls := by
  intro s p hwait hcnt hp hT hrst hline
  have hpolls : s.Polls s.regs 0 p := fun k hk => by
    rw [Nat.zero_add]
    exact ⟨hrst k hk, hline k hk⟩
  have hend := regsAt_of_counts (a := 0) (counted_zero hcnt).symm hp (counts_of_polls hwait hT hpolls)
  rw [Nat.zero_add] at hend
  rw [runEdges_eq, hend]
  rfl

/-- Settles O41, by induction on the number of settle ticks. -/
theorem settleLastsExactlyS : Obligations.SettleLastsExactlyS := by
  intro s x hf hcnt hS hrst
  have hrst' : ∀ k < s.params.S, (s.wordAt (0 + k)).rst = false := fun k hk => by
    rw [Nat.zero_add]
    exact hrst k hk
  refine ⟨fun k hk hkS => ?_, ?_⟩
  · have hcounts := regsAt_of_counts (a := 0) (counted_zero hcnt).symm hk
      (counts_of_settle hf hkS fun i hi => hrst' i (by omega))
    rw [Nat.zero_add] at hcounts
    rw [runEdges_eq, hcounts]
    rfl
  · have hend := regsAt_settle_end (a := 0) (counted_zero hcnt).symm hf hS hrst'
    rw [Nat.zero_add] at hend
    rw [runEdges_eq, hend]
    rfl

end

section
/-! PROOF. The segments of a decode (R148, R179): a wait that ends at its poll, the settle delay behind it, and the
check or the sample in between do to the registers what the check or the sample does by itself. -/

namespace Sys2Proof.Machine

variable {p : Params} {r : Regs} {s : State} {a n k : Nat} {w : InputWord}

/-! ## The operations that end a stretch of counting do not read the counter -/

theorem settleThen_counted (p : Params) (x : SettleTarget) (k : Nat) (r : Regs) :
    settleThen p x (r.counted k) = settleThen p x (clearDone r) := by
  rw [settleThen_eq, settleThen_eq]
  rfl

theorem columnEnd_counted (p : Params) (k : Nat) (r : Regs) :
    columnEnd p false (r.counted k) = columnEnd p false (clearDone r) := by
  rw [columnEnd_false_eq, columnEnd_false_eq]
  rfl

theorem confirmHeaderEdge_enter (p : Params) (f : FsmState) (r : Regs) :
    confirmHeaderEdge p (enter f r) = confirmHeaderEdge p r := by
  rw [confirmHeaderEdge_eq, confirmHeaderEdge_eq]
  rfl

/-! ## The waits for a low line (R140, R144) -/

/-- The check behind each of the two waits for a low line. -/
def SettleTarget.IsBehind (x : SettleTarget) (f : FsmState) : Prop :=
  x = .syncCheck ∧ f = .idleWait ∨ x = .hdrCheck ∧ f = .hdrWait

theorem SettleTarget.IsBehind.isWait {x : SettleTarget} {f : FsmState} (h : x.IsBehind f) : f.isWait = true := by
  rcases h with ⟨-, rfl⟩ | ⟨-, rfl⟩ <;> rfl

theorem SettleTarget.IsBehind.waitedLevel {x : SettleTarget} (h : x.IsBehind r.state) : r.waitedLevel = true := by
  rcases h with ⟨-, hf⟩ | ⟨-, hf⟩ <;> simp [Regs.waitedLevel, hf]

theorem edgeRegs_low {x : SettleTarget} (hx : x.IsBehind r.state) (hrst : w.rst = false) (hlow : w.line = false) :
    edgeRegs p w r = settleThen p x (clearDone r) := by
  have hedge (onTimeout : Regs → Regs) :
      waitStep p true w.line (settleThen p x) onTimeout (clearDone r) = settleThen p x (clearDone r) :=
    waitStep_of_line_ne (by simp [hlow]) _ _
  rcases hx with ⟨rfl, hf⟩ | ⟨rfl, hf⟩
  · rw [edgeRegs_of_not_rst hrst, hf]
    exact hedge _
  · rw [edgeRegs_of_not_rst hrst, hf]
    exact hedge _

/-- `n` high polls and a low one. -/
theorem regsAt_wait_low {x : SettleTarget} (h0 : clearDone (s.regsAt a) = r.counted 0) (hx : x.IsBehind r.state)
    (hn : n < s.params.T) (hpolls : s.Polls r a n) (hrst : (s.wordAt (a + n)).rst = false)
    (hlow : (s.wordAt (a + n)).line = false) : s.regsAt (a + n + 1) = settleThen s.params x (clearDone r) := by
  have hcounts := clearDone_regsAt_of_counts h0 (counts_of_polls hx.isWait hn hpolls)
  rw [regsAt_succ_of_clearDone hcounts, edgeRegs_low (r := r.counted n) hx hrst hlow]
  exact settleThen_counted s.params x n r

/-- High polls to the T-th in the carrier wait (R140). -/
theorem regsAt_noCarrier (h0 : clearDone (s.regsAt a) = r.counted 0) (hf : r.state = .idleWait)
    (hn : n + 1 = s.params.T) (hpolls : s.Polls r a n) (hrst : (s.wordAt (a + n)).rst = false)
    (hhigh : (s.wordAt (a + n)).line = true) : s.regsAt (a + n + 1) = finish .noCarrier (r.counted n) := by
  have hTle : s.params.T ≤ 65536 := s.params.T_le
  have hcounts := clearDone_regsAt_of_counts h0 (counts_of_polls (by simp [hf]) (by omega) hpolls)
  have hstate : (r.counted n).state = .idleWait := hf
  have hcnt : (r.counted n).cnt.toNat + 1 = s.params.T := by rw [counted_cnt_toNat (by omega), hn]
  rw [regsAt_succ_of_clearDone hcounts, edgeRegs_of_not_rst hrst, hstate]
  exact (waitStep_of_line_eq hhigh _ _).trans (if_pos hcnt)

/-- The check that a settle delay has led to does what it does by itself, whatever state it is given (R142, R146). -/
theorem exec_check_eq {x : SettleTarget} {f : FsmState} (hx : x.IsBehind f) (hrst : w.rst = false) (s : State) :
    exec (if f = .idleWait then .syncCheck w.line else .hdrCheck w.line) s =
      .next (s.setRegs (edgeRegs s.params w (enter x.state (clearDone s.regs)))) := by
  rw [edgeRegs_of_not_rst hrst]
  rcases hx with ⟨rfl, rfl⟩ | ⟨rfl, rfl⟩
  · cases hline : w.line with
    | true => rfl
    | false => rfl
  · cases hline : w.line with
    | true =>
      exact congrArg (fun regs => Host.Outcome.next (s.setRegs regs))
        (confirmHeaderEdge_enter s.params .hdrCheck (clearDone s.regs)).symm
    | false => rfl

/-! ## The data bit (R171, R175) -/

theorem edgeRegs_sample (hf : r.state = .bitSample) (hrst : w.rst = false) :
    edgeRegs p w r = sampleBit w.line (clearDone r) := by
  rw [edgeRegs_of_not_rst hrst, hf]
  rfl

theorem edgeRegs_columnEnd (hf : r.state = .bitWait) (hrst : w.rst = false) (hline : w.line ≠ r.dat) :
    edgeRegs p w r = columnEnd p false (clearDone r) := by
  rw [edgeRegs_of_not_rst hrst, hf]
  exact waitStep_of_line_ne hline _ _

/-- `n` polls at the sampled level and one at the other. -/
theorem regsAt_data_edge (h0 : clearDone (s.regsAt a) = r.counted 0) (hf : r.state = .bitWait)
    (hn : n < s.params.T) (hpolls : s.Polls r a n) (hrst : (s.wordAt (a + n)).rst = false)
    (hline : (s.wordAt (a + n)).line ≠ r.dat) :
    s.regsAt (a + n + 1) = columnEnd s.params false (clearDone r) := by
  have hcounts := clearDone_regsAt_of_counts h0 (counts_of_polls (by simp [hf]) hn hpolls)
  rw [regsAt_succ_of_clearDone hcounts, edgeRegs_columnEnd (r := r.counted n) hf hrst hline]
  exact columnEnd_counted s.params n r

end Sys2Proof.Machine

open Sys2Proof Sys2Proof.Machine

/-- Settles O40: the START leads to the carrier wait's first poll, and the polls up to the p-th only count. -/
theorem carrierWaitEndsAtItsPoll : Obligations.CarrierWaitEndsAtItsPoll := by
  intro s p hf hstart hrst hp hT hhigh
  obtain ⟨n, rfl⟩ := Nat.exists_eq_add_of_le' hp
  have hone : clearDone (s.regsAt 1) = (beginDecode (clearDone s.regs)).counted 0 := by
    rw [regsAt_one_of_start hf hstart (hrst 0 (by omega))]
    rfl
  have hpolls : s.Polls (beginDecode (clearDone s.regs)) 1 n := fun k hk => by
    rw [Nat.add_comm 1 k]
    exact ⟨hrst (k + 1) (by omega), hhigh k (by omega)⟩
  have hlast : (s.wordAt (1 + n)).rst = false := hrst (1 + n) (by omega)
  rw [Nat.add_comm n 1] at hT ⊢
  refine ⟨fun hlow => ⟨_, runEdges_eq s _, ?_⟩, fun hhigh' hpT => ⟨_, runEdges_eq s _, ?_⟩⟩
  · rw [setRegs_regs, regsAt_wait_low hone (x := .syncCheck) (.inl ⟨rfl, rfl⟩) (by omega) hpolls hlast hlow,
      settleThen_eq]
    exact ⟨rfl, rfl, rfl⟩
  · rw [setRegs_regs, regsAt_noCarrier hone rfl (by omega) hpolls hlast hhigh']
    exact ⟨rfl, rfl, rfl⟩

/-- Settles O42: polls, a low poll, the settle delay and the check, one stretch after another. -/
theorem checkedRoundTakesItsSegment : Obligations.CheckedRoundTakesItsSegment := by
  intro s b v hf hcnt hv hT hrst hhigh hlow hb check
  obtain ⟨n, rfl⟩ := Nat.exists_eq_add_of_le' hv
  obtain ⟨x, hx⟩ : ∃ x : SettleTarget, x.IsBehind s.regs.state :=
    hf.elim (fun hf => ⟨.syncCheck, .inl ⟨rfl, hf⟩⟩) (fun hf => ⟨.hdrCheck, .inr ⟨rfl, hf⟩⟩)
  have hpolls : s.Polls s.regs 0 n := fun k hk => by
    rw [Nat.zero_add]
    exact ⟨hrst k (by omega), (hhigh k hk).trans hx.waitedLevel.symm⟩
  have hedge : s.regsAt (n + 1) = settleThen s.params x (clearDone s.regs) := by
    have hwait := regsAt_wait_low (a := 0) (n := n) (counted_zero hcnt).symm hx (by omega) hpolls
      (hrst _ (by omega)) (by rw [Nat.zero_add]; exact hlow)
    rwa [Nat.zero_add] at hwait
  have hsettle : clearDone (s.regsAt (n + 1 + s.params.S)) = enter x.state (clearDone s.regs) :=
    clearDone_regsAt_settleThen (r := clearDone s.regs) (congrArg clearDone hedge) fun k hk => hrst _ (by omega)
  have hcheck := exec_check_eq (w := s.wordAt (n + 1 + s.params.S)) hx (hrst _ (by omega)) s
  rw [hb] at hcheck
  refine ⟨_, hcheck, ?_⟩
  rw [runEdges_eq, regsAt_succ_of_clearDone hsettle]
  rfl

/-- Settles O43: the settle delay, the sample, polls at the sampled level and one at the other, one stretch after
another. -/
theorem dataBitTakesItsSegment : Obligations.DataBitTakesItsSegment := by
  intro s b v hf hcnt hv hT hrst hline hedge
  obtain ⟨n, rfl⟩ := Nat.exists_eq_add_of_le' hv
  have hentry : clearDone s.regs = settleThen s.params .bitSample (clearDone s.regs) := by
    rw [settleThen_eq]
    simp [clearDone, SettleTarget.state, SettleTarget.settleState, ← hf, ← hcnt]
  have hsettle : clearDone (s.regsAt s.params.S) = enter .bitSample (clearDone s.regs) := by
    have hend := clearDone_regsAt_settleThen (s := s) (a := 0) (x := .bitSample) (r := clearDone s.regs)
      (by rw [← hentry]; rfl) fun k hk => hrst _ (by omega)
    rwa [Nat.zero_add] at hend
  have hb : (s.wordAt s.params.S).line = b := hline 0 (by omega)
  have hsample : s.regsAt (s.params.S + 1) = sampleBit b (clearDone s.regs) := by
    rw [regsAt_succ_of_clearDone hsettle, edgeRegs_sample rfl (hrst _ (by omega)), hb]
    rfl
  have hzero : clearDone (s.regsAt (s.params.S + 1)) = (sampleBit b (clearDone s.regs)).counted 0 := by
    rw [hsample]
    rfl
  have hpolls : s.Polls (sampleBit b (clearDone s.regs)) (s.params.S + 1) n := fun k hk => by
    have hpoll := hline (k + 1) (by omega)
    rw [← Nat.add_assoc, Nat.add_right_comm] at hpoll
    exact ⟨hrst _ (by omega), hpoll⟩
  have hlast : (s.wordAt (s.params.S + 1 + n)).line = !b := by
    rw [Nat.add_right_comm]
    exact hedge
  have hend := regsAt_data_edge hzero rfl (by omega) hpolls (hrst _ (by omega))
    (by rw [hlast]; exact Bool.not_ne_self b)
  refine ⟨s.setRegs (sampleBit b (clearDone s.regs)), _, rfl, exec_bitWait_of_line_ne (Bool.not_ne_self b), ?_⟩
  rw [runEdges_eq, ← Nat.add_assoc, hend]
  rfl

end

section
/-! PROOF. The latency of a decode (R263): every edge of a decode stays in its segment with fewer edges left there, goes
on to the next segment, or ends the decode; so the edges left run out. -/

namespace Sys2Proof.Machine

variable {p : Params} {r r' : Regs} {line : Bool}

/-! ## The edges left as a function of the registers -/

/-- The most edges of one segment. -/
def Params.segmentEdges (p : Params) : Nat := p.T + p.S + 1

/-- `State.edgesLeft` of the registers and parameters. -/
def Regs.edgesLeft (p : Params) (r : Regs) : Nat := r.segmentsAfter * Params.segmentEdges p + r.edgesInSegment p

theorem edgesLeft_eq (s : State) : s.edgesLeft = s.regs.edgesLeft s.params := rfl

/-- The edges that a settle delay and what follows it in the segment may take. -/
def SettleTarget.edges (p : Params) : SettleTarget → Nat
  | .syncCheck | .hdrCheck => p.S + 1
  | .bitSample => p.S + 1 + p.T

theorem settleThen_edgesInSegment (x : SettleTarget) : (settleThen p x r).edgesInSegment p = x.edges p := by
  rcases settleThen_cases p x r with ⟨hS, e⟩ | ⟨-, e⟩ <;> rw [e]
  · cases x <;> simp [Regs.edgesInSegment, SettleTarget.state, SettleTarget.edges, hS]
  · cases x <;> simp [Regs.edgesInSegment, SettleTarget.settleState, SettleTarget.edges]

theorem enter_settleState_segmentsAfter (x : SettleTarget) :
    (enter x.settleState r).segmentsAfter = (enter x.state r).segmentsAfter := by
  cases x <;> rfl

theorem settleThen_segmentsAfter (x : SettleTarget) :
    (settleThen p x r).segmentsAfter = (enter x.state r).segmentsAfter := by
  rcases settleThen_cases p x r with ⟨-, e⟩ | ⟨-, e⟩ <;> rw [e]
  exact enter_settleState_segmentsAfter x

theorem edgesLeft_of_idle (h : r.state = .idle) : r.edgesLeft p = 0 := by
  simp [Regs.edgesLeft, Regs.segmentsAfter, Regs.edgesInSegment, h]

/-- A busy state always has an edge left in its segment. -/
theorem Regs.Inv.edgesInSegment_pos (h : r.Inv p) (hf : r.state ≠ .idle) : 0 < r.edgesInSegment p := by
  obtain ⟨-, hwait, -⟩ := h
  have hT := p.T_pos
  unfold Regs.edgesInSegment
  cases hstate : r.state with
  | idle => exact absurd hstate hf
  | bitWait =>
    have hcnt := hwait (by simp [hstate])
    simp only
    omega
  | _ => simp only; omega

/-! ## The three ways of going on -/

/-- Fewer edges left in the same segment, the next segment, or the end of the decode. -/
def Regs.GoesOnTo (p : Params) (r r' : Regs) : Prop :=
  r'.segmentsAfter = r.segmentsAfter ∧ r'.edgesInSegment p < r.edgesInSegment p ∨
    r'.segmentsAfter + 1 = r.segmentsAfter ∧ r'.edgesInSegment p ≤ Params.segmentEdges p ∨
    r'.state = .idle

theorem Regs.GoesOnTo.edgesLeft_lt (h : r.GoesOnTo p r') (hpos : 0 < r.edgesInSegment p) :
    r'.edgesLeft p < r.edgesLeft p := by
  rcases h with ⟨hsame, hfewer⟩ | ⟨hnext, hle⟩ | hidle
  · unfold Regs.edgesLeft
    rw [hsame]
    omega
  · unfold Regs.edgesLeft
    rw [← hnext, Nat.succ_mul]
    omega
  · rw [edgesLeft_of_idle hidle]
    exact Nat.lt_of_lt_of_le hpos (Nat.le_add_left _ _)

/-- One more poll or settle tick leaves one edge less. -/
theorem count_goesOn (hcount : r.state.isWait = true ∧ r.cnt.toNat + 1 < p.T ∨
    r.state.isSettle = true ∧ r.cnt.toNat + 1 < p.S) : r.GoesOnTo p { r with cnt := r.cnt + 1 } := by
  have hTle : p.T ≤ 65536 := p.T_le
  have hSle : p.S ≤ 65536 := p.S_le
  have hinc : (r.cnt + 1).toNat = r.cnt.toNat + 1 := toNat_add_one_of_lt (by omega)
  refine .inl ⟨rfl, ?_⟩
  unfold Regs.edgesInSegment
  cases hstate : r.state with
  | idleWait | hdrWait | bitWait | syncSettle | hdrSettle | bitSettle =>
    simp only [hinc]
    simp [hstate] at hcount
    omega
  | _ => simp [hstate] at hcount

theorem settleEnd_goesOn {x : SettleTarget} (hf : r.state = x.settleState) (hS : r.cnt.toNat + 1 = p.S) :
    r.GoesOnTo p (enter x.state r) := by
  refine .inl ⟨?_, ?_⟩
  · cases x <;> simp [Regs.segmentsAfter, hf, SettleTarget.state, SettleTarget.settleState]
  · cases x <;> simp only [Regs.edgesInSegment, hf, SettleTarget.state, SettleTarget.settleState, enter_state] <;> omega

/-- An edge of the carrier wait or the header wait goes on in the same segment. -/
theorem waitEdge_goesOn {x : SettleTarget} (hx : x.IsBehind r.state) (hcnt : r.cnt.toNat < p.T) :
    r.GoesOnTo p (settleThen p x r) := by
  refine .inl ⟨?_, ?_⟩
  · rw [settleThen_segmentsAfter]
    rcases hx with ⟨rfl, hf⟩ | ⟨rfl, hf⟩ <;> simp [Regs.segmentsAfter, hf, SettleTarget.state]
  · rw [settleThen_edgesInSegment]
    rcases hx with ⟨rfl, hf⟩ | ⟨rfl, hf⟩ <;> simp only [Regs.edgesInSegment, hf, SettleTarget.edges] <;> omega

/-- From the end of one segment to the next data bit. -/
theorem nextBit_goesOn (h : (enter .bitSample r').segmentsAfter + 1 = r.segmentsAfter) :
    r.GoesOnTo p (settleThen p .bitSample r') := by
  refine .inr (.inl ⟨?_, ?_⟩)
  · rw [settleThen_segmentsAfter]
    exact h
  · rw [settleThen_edgesInSegment, SettleTarget.edges, Params.segmentEdges]
    omega

/-- From the end of one segment to the next header round. -/
theorem nextRound_goesOn (h : 62 - r'.hdr.toNat + 1 = r.segmentsAfter) : r.GoesOnTo p (enter .hdrWait r') := by
  refine .inr (.inl ⟨h, ?_⟩)
  simp [Regs.edgesInSegment, Params.segmentEdges]

/-! ## Every edge -/

theorem BusyEdge.goesOn (h : BusyEdge p line r r') (hinv : r.Inv p) : r.GoesOnTo p r' := by
  have hrow := hinv.row_le
  have hcol := hinv.col_le
  have hzero := hinv.row_col_eq_zero
  have hT := p.T_pos
  obtain ⟨-, hwait, hsettle, -, -, hcarrier, hheader, -⟩ := hinv
  cases h with
  | poll hw hline hne =>
    have hcnt := hwait hw
    exact count_goesOn (.inl ⟨hw, by omega⟩)
  | settleTick x hf hne =>
    obtain ⟨-, hx, -⟩ := x.settleState_kinds
    have hcnt := hsettle (hf ▸ hx)
    exact count_goesOn (.inr ⟨hf ▸ hx, by omega⟩)
  | settleEnd x hf hS => exact settleEnd_goesOn hf hS
  | carrierEdge hf =>
    have hcnt := hwait (by simp [hf])
    exact waitEdge_goesOn (.inl ⟨rfl, hf⟩) (by omega)
  | headerEdge hf =>
    have hcnt := hwait (by simp [hf])
    exact waitEdge_goesOn (.inr ⟨rfl, hf⟩) (by omega)
  | syncHigh hf =>
    have hhdr := hcarrier (by simp [hf])
    exact nextRound_goesOn (by simp [Regs.segmentsAfter, hf, hhdr])
  | headerCounted hf _ hne =>
    have hhdr := hheader (by simp [hf])
    have hinc : (r.hdr + 1).toNat = r.hdr.toNat + 1 := toNat_add_one_of_lt (by omega)
    refine nextRound_goesOn ?_
    simp only [Regs.segmentsAfter, hf, hinc]
    omega
  | headerLocked hf _ hhdr =>
    obtain ⟨hrow0, hcol0⟩ := hzero (.inr (by simp [hf]))
    exact nextBit_goesOn (by simp [Regs.segmentsAfter, hf, hhdr, hrow0, hcol0])
  | sample hf =>
    refine .inl ⟨by simp [Regs.segmentsAfter, sampleBit, hf], ?_⟩
    simp [Regs.edgesInSegment, sampleBit, hf]
  | nextColumn hf _ hcol3 =>
    have hinc : (r.col + 1).toNat = r.col.toNat + 1 := toNat_add_one_of_lt (by omega)
    refine nextBit_goesOn ?_
    simp only [Regs.segmentsAfter, enter_state, enter_row, enter_col, hf, hinc]
    omega
  | nextRow hf _ hcol4 hrow9 =>
    have hinc : (r.row + 1).toNat = r.row.toNat + 1 := toNat_add_one_of_lt (by omega)
    have hcol0 : (0 : BitVec 3).toNat = 0 := rfl
    refine nextBit_goesOn ?_
    simp only [Regs.segmentsAfter, enter_state, enter_row, enter_col, hf, hinc, hcol0]
    omega
  | _ => exact .inr (.inr rfl)

theorem BusyEdge.edgesLeft_lt (h : BusyEdge p line r r') (hinv : r.Inv p) (hf : r.state ≠ .idle) :
    r'.edgesLeft p < r.edgesLeft p :=
  (h.goesOn hinv).edgesLeft_lt (hinv.edgesInSegment_pos hf)

theorem finalResult_ne_none (timedOut : Bool) (r : Regs) : finalResult timedOut r ≠ .none := by
  unfold finalResult
  split
  · nofun
  · split <;> nofun

/-- From a legal state a decode ends with a result (R220). -/
theorem BusyEdge.result_ne_none (h : BusyEdge p line r r') (hinv : r.Inv p) (hf : r.state ≠ .idle)
    (hidle : r'.state = .idle) : r'.done = true ∧ r'.result ≠ .none := by
  cases h with
  | poll | settleTick => exact absurd hidle hf
  | settleEnd x =>
    obtain ⟨-, -, -, htarget, -⟩ := x.state_kinds
    exact absurd hidle htarget
  | carrierEdge | headerEdge | headerLocked | nextColumn | nextRow => exact absurd hidle (settleThen_state_ne_idle _)
  | syncHigh | headerCounted | sample => nomatch hidle
  | recover k hk => exact absurd hk (hinv.not_unused k)
  | frameChecked => exact ⟨rfl, finalResult_ne_none false r⟩
  | dataTimeout =>
    rw [finish_result]
    exact ⟨rfl, by split <;> nofun⟩
  | _ => exact ⟨rfl, nofun⟩

theorem beginDecode_edgesLeft (p : Params) (r : Regs) :
    (beginDecode r).edgesLeft p = 64 * (p.T + p.S + 1) := by
  have hcnt : (0 : BitVec 16).toNat = 0 := rfl
  simp only [Regs.edgesLeft, Regs.segmentsAfter, Regs.edgesInSegment, Params.segmentEdges, beginDecode_state,
    beginDecode_cnt, hcnt]
  omega

/-! ## Runs to the end of a decode -/

theorem edgeRegs_edgesLeft_lt {w : InputWord} (hrst : w.rst = false) (hinv : r.Inv p) (hf : r.state ≠ .idle) :
    (edgeRegs p w r).edgesLeft p < r.edgesLeft p ∧
      ((edgeRegs p w r).state = .idle → (edgeRegs p w r).done = true ∧ (edgeRegs p w r).result ≠ .none) := by
  have hedge : BusyEdge p w.line (clearDone r) (edgeRegs p w r) := edgeRegs_busyEdge hrst hf
  exact ⟨hedge.edgesLeft_lt (clearDone_inv hinv) hf, hedge.result_ne_none (clearDone_inv hinv) hf⟩

theorem regsAt_inv {s : State} (h : s.Inv) (n : Nat) : (s.regsAt n).Inv s.params := by
  induction n with
  | zero => exact h
  | succ n ih => exact edgeRegs_inv ih (s.wordAt n)

/-- From a busy state with at most `m` edges left, and no `rst` at the next `m` edges, the decode ends by then. -/
theorem exists_completion {s : State} (hinv : s.Inv) (m a : Nat) (hf : (s.regsAt a).state ≠ .idle)
    (hleft : (s.regsAt a).edgesLeft s.params ≤ m) (hrst : ∀ i < m, (s.wordAt (a + i)).rst = false) :
    ∃ k, k < m ∧ ((s.regsAt (a + k + 1)).state = .idle ∧ (s.regsAt (a + k + 1)).done = true ∧
      (s.regsAt (a + k + 1)).result ≠ .none) ∧ ∀ j ≤ k, (s.regsAt (a + j)).state ≠ .idle := by
  induction m generalizing a with
  | zero =>
    have hpos := (regsAt_inv hinv a).edgesInSegment_pos hf
    unfold Regs.edgesLeft at hleft
    omega
  | succ m ih =>
    obtain ⟨hlt, hend⟩ := edgeRegs_edgesLeft_lt (hrst 0 (Nat.succ_pos m)) (regsAt_inv hinv a) hf
    by_cases hidle : (s.regsAt (a + 1)).state = .idle
    · refine ⟨0, Nat.succ_pos m, ⟨hidle, hend hidle⟩, fun j hj => ?_⟩
      obtain rfl : j = 0 := Nat.le_zero.mp hj
      exact hf
    · have hleft' : (s.regsAt (a + 1)).edgesLeft s.params ≤ m := Nat.le_of_lt_succ (Nat.lt_of_lt_of_le hlt hleft)
      obtain ⟨k, hk, hcompletes, hbusy⟩ := ih (a + 1) hidle hleft' fun i hi => by
        rw [Nat.add_right_comm]
        exact hrst (i + 1) (by omega)
      rw [Nat.add_right_comm a 1 k] at hcompletes
      refine ⟨k + 1, by omega, hcompletes, fun j hj => ?_⟩
      cases j with
      | zero => exact hf
      | succ j =>
        have hj' := hbusy j (by omega)
        rwa [Nat.add_right_comm] at hj'

end Sys2Proof.Machine

open Sys2Proof Sys2Proof.Machine

/-- Settles O53: a START leaves 64 whole segments, and every edge of a decode goes on in its segment, to the next one or
to the end. -/
theorem everyBusyEdgeUsesUpLatency : Obligations.EveryBusyEdgeUsesUpLatency := by
  refine ⟨fun s t hf hrst hstart hst => ?_, fun s t hinv hf hrst hst => ?_⟩
  · obtain rfl := eq_of_step_idle hst hrst hf
    rw [edgesLeft_eq, if_pos hstart]
    exact beginDecode_edgesLeft s.params _
  · rw [(step_next_iff s t).mp hst]
    exact edgeRegs_edgesLeft_lt hrst hinv hf

/-- Settles O54, by induction on the edges left after the START. -/
theorem everyDecodeEndsInTime : Obligations.EveryDecodeEndsInTime := by
  intro s hinv hf hstart hrst
  have hbegin : s.regsAt 1 = beginDecode (clearDone s.regs) :=
    regsAt_one_of_start hf hstart (hrst 0 (Nat.succ_pos _))
  have hleft : (s.regsAt 1).edgesLeft s.params ≤ 64 * (s.params.T + s.params.S + 1) := by
    rw [hbegin, beginDecode_edgesLeft]
  obtain ⟨k, hk, hcompletes, hbusy⟩ := exists_completion hinv _ 1 (by simp [hbegin]) hleft
    fun i hi => hrst (1 + i) (by omega)
  rw [Nat.add_comm 1 k] at hcompletes
  refine ⟨k + 1, by omega, by omega, ⟨_, runEdges_eq s _, hcompletes⟩, fun j hj1 hjk => ⟨_, runEdges_eq s j, ?_⟩⟩
  obtain ⟨i, rfl⟩ := Nat.exists_eq_add_of_le hj1
  have hbusy' := hbusy i (by omega)
  obtain ⟨-, hdone, -⟩ := (regsAt_inv hinv (1 + i)).result_done_tof hbusy'
  exact ⟨decide_eq_true hbusy', hdone⟩

end
